-- ==== Sys2Proof/Word.lean ====
section
/-!
DEFINITION. The words of the CHIP-8 CORE: widths only (00_scope.md R7, R9, R10).
-/

namespace Sys2Proof

/-- An 8-bit unsigned value: a general register, a timer, a memory byte (R10). -/
abbrev Byte := BitVec 8

/-- A 16-bit unsigned value: `pc`, `I`, a stack slot, an instruction word (R10). -/
abbrev Word := BitVec 16

/-- The number of a general register, V0 to VF (10_state.md R20). -/
abbrev RegNo := Fin 16

end Sys2Proof
end

