-- ==== Sys2Proof/Syntax.lean ====
section
/-!
DEFINITION. The 35 instructions of 00_scope.md R2, one constructor per row of spec/opcode_table.json, with the operand
forms of 30_encoding.md R83. Unmapped words (R86) are no instruction: the decoder rejects them by name.
-/

namespace Sys2Proof

/-- An instruction. `x` and `y` are register numbers, `kk` an immediate byte, `nnn` a 12-bit address, `n` a row count. -/
inductive Instr where
  /-- 00E0 CLS (43_display.md R180). -/
  | cls
  /-- 00EE RET (42_control.md R166). -/
  | ret
  /-- 0nnn SYS nnn (R160). -/
  | sys (nnn : BitVec 12)
  /-- 1nnn JP nnn (R162). -/
  | jp (nnn : BitVec 12)
  /-- 2nnn CALL nnn (R164). -/
  | call (nnn : BitVec 12)
  /-- 3xkk SE Vx, kk (41_skips.md R140). -/
  | seImm (x : RegNo) (kk : Byte)
  /-- 4xkk SNE Vx, kk (R141). -/
  | sneImm (x : RegNo) (kk : Byte)
  /-- 5xyN SE Vx, Vy (R142); the low nibble is not read. -/
  | seReg (x y : RegNo)
  /-- 6xkk LD Vx, kk (40_load_alu.md R102). -/
  | ldImm (x : RegNo) (kk : Byte)
  /-- 7xkk ADD Vx, kk (R104). -/
  | addImm (x : RegNo) (kk : Byte)
  /-- 8xy0 LD Vx, Vy (R106). -/
  | ldReg (x y : RegNo)
  /-- 8xy1 OR Vx, Vy (R107). -/
  | orReg (x y : RegNo)
  /-- 8xy2 AND Vx, Vy (R108). -/
  | andReg (x y : RegNo)
  /-- 8xy3 XOR Vx, Vy (R109). -/
  | xorReg (x y : RegNo)
  /-- 8xy4 ADD Vx, Vy (R110). -/
  | addReg (x y : RegNo)
  /-- 8xy5 SUB Vx, Vy (R111). -/
  | subReg (x y : RegNo)
  /-- 8xy6 SHR Vx (R112); `y` is decoded and not used. -/
  | shr (x y : RegNo)
  /-- 8xy7 SUBN Vx, Vy (R113). -/
  | subnReg (x y : RegNo)
  /-- 8xyE SHL Vx (R114); `y` is decoded and not used. -/
  | shl (x y : RegNo)
  /-- 9xyN SNE Vx, Vy (41_skips.md R143); the low nibble is not read. -/
  | sneReg (x y : RegNo)
  /-- Annn LD I, nnn (40_load_alu.md R116). -/
  | ldI (nnn : BitVec 12)
  /-- Bnnn JP V0, nnn (42_control.md R168). -/
  | jpV0 (nnn : BitVec 12)
  /-- Cxkk RND Vx, kk (40_load_alu.md R118). -/
  | rnd (x : RegNo) (kk : Byte)
  /-- Dxyn DRW Vx, Vy, n (43_display.md R182). -/
  | drw (x y : RegNo) (n : BitVec 4)
  /-- Ex9E SKP Vx (41_skips.md R144). -/
  | skp (x : RegNo)
  /-- ExA1 SKNP Vx (R145). -/
  | sknp (x : RegNo)
  /-- Fx07 LD Vx, DT (45_timers_keys.md R220). -/
  | ldVxDt (x : RegNo)
  /-- Fx0A LD Vx, K (R224 and R226). -/
  | ldVxK (x : RegNo)
  /-- Fx15 LD DT, Vx (R221). -/
  | ldDtVx (x : RegNo)
  /-- Fx18 LD ST, Vx (R222). -/
  | ldStVx (x : RegNo)
  /-- Fx1E ADD I, Vx (44_index_memory.md R200). -/
  | addI (x : RegNo)
  /-- Fx29 LD F, Vx (43_display.md R186). -/
  | ldF (x : RegNo)
  /-- Fx33 LD B, Vx (44_index_memory.md R202). -/
  | ldB (x : RegNo)
  /-- Fx55 LD [I], Vx (R204). -/
  | storeRegs (x : RegNo)
  /-- Fx65 LD Vx, [I] (R206). -/
  | loadRegs (x : RegNo)
  deriving DecidableEq, Repr

end Sys2Proof
end

