-- ==== Sys2Proof/Decode.lean ====
section
/-!
DEFINITION. Instruction words: byte order (20_memory.md R68), fields (30_encoding.md R81, R82), the decoder (R84 to R88)
and the encoder written from the same map.
-/

namespace Sys2Proof

/-- Why a word is no instruction: the unmapped words of R86, by group, with the selector that is not in the map. -/
inductive Unmapped where
  /-- A group 8 word whose `n` selects nothing. -/
  | group8 (n : BitVec 4)
  /-- A group E word whose `kk` selects nothing. -/
  | groupE (kk : Byte)
  /-- A group F word whose `kk` selects nothing. -/
  | groupF (kk : Byte)
  deriving DecidableEq, Repr

/-- The instruction word of two consecutive bytes, the one at the lower address first (R68: big-endian). -/
def wordOfBytes (first second : Byte) : Word := first ++ second

/-- Bits 15 to 8 of a word: the byte at the lower address (R68). -/
def firstByte (op : Word) : Byte := op.extractLsb' 8 8

/-- Bits 7 to 0 of a word: the byte at the higher address (R68). -/
def secondByte (op : Word) : Byte := op.extractLsb' 0 8

/-- `g`, bits 15 to 12 (R82). -/
def fieldG (op : Word) : BitVec 4 := op.extractLsb' 12 4

/-- `x`, bits 11 to 8, as a register number (R82, R83). -/
def fieldX (op : Word) : RegNo := (op.extractLsb' 8 4).toFin

/-- `y`, bits 7 to 4, as a register number (R82, R83). -/
def fieldY (op : Word) : RegNo := (op.extractLsb' 4 4).toFin

/-- `n`, bits 3 to 0 (R82). -/
def fieldN (op : Word) : BitVec 4 := op.extractLsb' 0 4

/-- `kk`, bits 7 to 0 (R82). -/
def fieldKK (op : Word) : Byte := op.extractLsb' 0 8

/-- `nnn`, bits 11 to 0 (R82). -/
def fieldNNN (op : Word) : BitVec 12 := op.extractLsb' 0 12

/-- Group 0 is selected on the whole word (R85). -/
def decodeGroup0 (op : Word) : Instr :=
  if op = 0x00E0#16 then .cls
  else if op = 0x00EE#16 then .ret
  else .sys (fieldNNN op)

/-- Group 8 is selected on `n` (R88). -/
def decodeGroup8 (op : Word) : Except Unmapped Instr :=
  let x := fieldX op
  let y := fieldY op
  let n := fieldN op
  if n = 0x0#4 then .ok (.ldReg x y)
  else if n = 0x1#4 then .ok (.orReg x y)
  else if n = 0x2#4 then .ok (.andReg x y)
  else if n = 0x3#4 then .ok (.xorReg x y)
  else if n = 0x4#4 then .ok (.addReg x y)
  else if n = 0x5#4 then .ok (.subReg x y)
  else if n = 0x6#4 then .ok (.shr x y)
  else if n = 0x7#4 then .ok (.subnReg x y)
  else if n = 0xE#4 then .ok (.shl x y)
  else .error (.group8 n)

/-- Group E is selected on `kk` (R88). -/
def decodeGroupE (op : Word) : Except Unmapped Instr :=
  let x := fieldX op
  let kk := fieldKK op
  if kk = 0x9E#8 then .ok (.skp x)
  else if kk = 0xA1#8 then .ok (.sknp x)
  else .error (.groupE kk)

/-- Group F is selected on `kk` (R88). -/
def decodeGroupF (op : Word) : Except Unmapped Instr :=
  let x := fieldX op
  let kk := fieldKK op
  if kk = 0x07#8 then .ok (.ldVxDt x)
  else if kk = 0x0A#8 then .ok (.ldVxK x)
  else if kk = 0x15#8 then .ok (.ldDtVx x)
  else if kk = 0x18#8 then .ok (.ldStVx x)
  else if kk = 0x1E#8 then .ok (.addI x)
  else if kk = 0x29#8 then .ok (.ldF x)
  else if kk = 0x33#8 then .ok (.ldB x)
  else if kk = 0x55#8 then .ok (.storeRegs x)
  else if kk = 0x65#8 then .ok (.loadRegs x)
  else .error (.groupF kk)

/-- The decode function of R88, total on every word: an instruction, or the name of the unmapped word. The last branch
is group F, the one value of `g` that is left. -/
def decode (op : Word) : Except Unmapped Instr :=
  let g := fieldG op
  if g = 0x0#4 then .ok (decodeGroup0 op)
  else if g = 0x1#4 then .ok (.jp (fieldNNN op))
  else if g = 0x2#4 then .ok (.call (fieldNNN op))
  else if g = 0x3#4 then .ok (.seImm (fieldX op) (fieldKK op))
  else if g = 0x4#4 then .ok (.sneImm (fieldX op) (fieldKK op))
  else if g = 0x5#4 then .ok (.seReg (fieldX op) (fieldY op))
  else if g = 0x6#4 then .ok (.ldImm (fieldX op) (fieldKK op))
  else if g = 0x7#4 then .ok (.addImm (fieldX op) (fieldKK op))
  else if g = 0x8#4 then decodeGroup8 op
  else if g = 0x9#4 then .ok (.sneReg (fieldX op) (fieldY op))
  else if g = 0xA#4 then .ok (.ldI (fieldNNN op))
  else if g = 0xB#4 then .ok (.jpV0 (fieldNNN op))
  else if g = 0xC#4 then .ok (.rnd (fieldX op) (fieldKK op))
  else if g = 0xD#4 then .ok (.drw (fieldX op) (fieldY op) (fieldN op))
  else if g = 0xE#4 then decodeGroupE op
  else decodeGroupF op

/-- The decoder on bytes: the first two bytes give the instruction (R80: a decoder always consumes exactly 2 bytes) and
the rest is left. `none` for fewer than two bytes. -/
def decodeBytes : List Byte → Option (Except Unmapped Instr × List Byte)
  | first :: second :: rest => some (decode (wordOfBytes first second), rest)
  | _ => none

/-- A register number as a 4-bit field. -/
def regField (r : RegNo) : BitVec 4 := BitVec.ofNat 4 r.val

/-- The word `g nnn`. -/
def encodeNNN (g : BitVec 4) (nnn : BitVec 12) : Word := g ++ nnn

/-- The word `g x kk`. -/
def encodeXKK (g : BitVec 4) (x : RegNo) (kk : Byte) : Word := (g ++ regField x : Byte) ++ kk

/-- The word `g x y n`. -/
def encodeXYN (g : BitVec 4) (x y : RegNo) (n : BitVec 4) : Word := (g ++ regField x : Byte) ++ (regField y ++ n : Byte)

/-- The encoder, from the map of R84. The `n` field of 5xyN and 9xyN, which is not read (R142, R143), is 0. -/
def encode : Instr → Word
  | .cls => 0x00E0#16
  | .ret => 0x00EE#16
  | .sys nnn => encodeNNN 0x0#4 nnn
  | .jp nnn => encodeNNN 0x1#4 nnn
  | .call nnn => encodeNNN 0x2#4 nnn
  | .seImm x kk => encodeXKK 0x3#4 x kk
  | .sneImm x kk => encodeXKK 0x4#4 x kk
  | .seReg x y => encodeXYN 0x5#4 x y 0x0#4
  | .ldImm x kk => encodeXKK 0x6#4 x kk
  | .addImm x kk => encodeXKK 0x7#4 x kk
  | .ldReg x y => encodeXYN 0x8#4 x y 0x0#4
  | .orReg x y => encodeXYN 0x8#4 x y 0x1#4
  | .andReg x y => encodeXYN 0x8#4 x y 0x2#4
  | .xorReg x y => encodeXYN 0x8#4 x y 0x3#4
  | .addReg x y => encodeXYN 0x8#4 x y 0x4#4
  | .subReg x y => encodeXYN 0x8#4 x y 0x5#4
  | .shr x y => encodeXYN 0x8#4 x y 0x6#4
  | .subnReg x y => encodeXYN 0x8#4 x y 0x7#4
  | .shl x y => encodeXYN 0x8#4 x y 0xE#4
  | .sneReg x y => encodeXYN 0x9#4 x y 0x0#4
  | .ldI nnn => encodeNNN 0xA#4 nnn
  | .jpV0 nnn => encodeNNN 0xB#4 nnn
  | .rnd x kk => encodeXKK 0xC#4 x kk
  | .drw x y n => encodeXYN 0xD#4 x y n
  | .skp x => encodeXKK 0xE#4 x 0x9E#8
  | .sknp x => encodeXKK 0xE#4 x 0xA1#8
  | .ldVxDt x => encodeXKK 0xF#4 x 0x07#8
  | .ldVxK x => encodeXKK 0xF#4 x 0x0A#8
  | .ldDtVx x => encodeXKK 0xF#4 x 0x15#8
  | .ldStVx x => encodeXKK 0xF#4 x 0x18#8
  | .addI x => encodeXKK 0xF#4 x 0x1E#8
  | .ldF x => encodeXKK 0xF#4 x 0x29#8
  | .ldB x => encodeXKK 0xF#4 x 0x33#8
  | .storeRegs x => encodeXKK 0xF#4 x 0x55#8
  | .loadRegs x => encodeXKK 0xF#4 x 0x65#8

/-- The 16-bit word of an instruction numbered as spec/opcode_table.json numbers it: the instruction is one word, and the
bits above `nbits` are 0. -/
def tableWord (nbits w : Nat) : Word := BitVec.ofNat 16 (w % 2 ^ nbits)

/-- What the decoder reads from that word laid out in memory, high byte first. -/
def decodeTableWord (nbits w : Nat) : Option Instr :=
  match decodeBytes [firstByte (tableWord nbits w), secondByte (tableWord nbits w)] with
  | some (.ok i, _) => some i
  | _ => none

end Sys2Proof
end

