-- ==== Sys2Proof/Config.lean ====
section
/-!
DEFINITION. What an implementation fixes (00_scope.md R7, R8) and the one free value (40_load_alu.md R118).
-/

namespace Sys2Proof

/-- The parameter KEY_WAIT_MODE of R8: what Fx0A does (45_timers_keys.md R224 and R226). -/
inductive KeyWaitMode where
  | noop
  | wait
  deriving DecidableEq, Repr

/-- The parameter FONT of R8: the 80 bytes that construction places at 0x000 to 0x04F. -/
abbrev Font := Vector Byte 80

namespace Config

/-- MEM_SIZE of R7: addresses 0x000 to 0xFFF. -/
abbrev memSize : Nat := 4096

/-- PROGRAM_BASE of R7: where `loadROM` writes and where `pc` starts. -/
abbrev programBase : Nat := 0x200

/-- MAX_ROM of R7. -/
abbrev maxRom : Nat := 3584

/-- FREE VALUE (log entry 3): the byte that the n-th executed Cxkk draws. No law is known of it:
"every byte 0..255 is a possible draw, and no claim may rest on the distribution or on a seed" (R118). -/
opaque rand : Nat → Byte

end Config

end Sys2Proof
end

