-- ==== Sys2Proof/Machine/Defaults.lean ====
section
/-!
DEFINITION. The defaults the spec takes for its open parameters (00_scope.md R8). Only State.reset uses them; every
meaning reads the parameters from the state.
-/

namespace Sys2Proof.Machine

/-- KEY_WAIT_MODE's default (R8, 92_eei_decisions.md D22). -/
def defaultKeyWaitMode : KeyWaitMode := .noop

/-- FONT's default: the conventional hexadecimal font of 93_implementation_defined.md G1, glyphs 0 to F, five bytes each
(PRESUMED, log entry 1: the spec marks it as general knowledge). -/
def defaultFont : Font :=
  ⟨#[0xF0, 0x90, 0x90, 0x90, 0xF0,
     0x20, 0x60, 0x20, 0x20, 0x70,
     0xF0, 0x10, 0xF0, 0x80, 0xF0,
     0xF0, 0x10, 0xF0, 0x10, 0xF0,
     0x90, 0x90, 0xF0, 0x10, 0x10,
     0xF0, 0x80, 0xF0, 0x10, 0xF0,
     0xF0, 0x80, 0xF0, 0x90, 0xF0,
     0xF0, 0x10, 0x20, 0x40, 0x40,
     0xF0, 0x90, 0xF0, 0x90, 0xF0,
     0xF0, 0x90, 0xF0, 0x10, 0xF0,
     0xF0, 0x90, 0xF0, 0x90, 0x90,
     0xE0, 0x90, 0xE0, 0x90, 0xE0,
     0xF0, 0x80, 0x80, 0x80, 0xF0,
     0xE0, 0x90, 0x90, 0x90, 0xE0,
     0xF0, 0x80, 0xF0, 0x80, 0xF0,
     0xF0, 0x80, 0xF0, 0x80, 0x80], rfl⟩

end Sys2Proof.Machine
end

