-- ==== Sys2Proof/Machine/State.lean ====
section
/-!
DEFINITION. The state record of 10_state.md R56 as plain data, the FAULT register (R50), the reasons a step can stop,
and the state after construction (R55).
-/

namespace Sys2Proof.Machine

/-- The five faults of 60_exceptions.md R242. -/
inductive FaultCode where
  | fetchRange
  | memReadRange
  | memWriteRange
  | stackOverflow
  | stackUnderflow
  deriving DecidableEq, Repr

/-- The fields of the FAULT register when it is set (10_state.md R50); its `valid` bit is that it is set. -/
structure FaultRecord where
  /-- The fault code. -/
  code : FaultCode
  /-- `pc0` of the faulting step. -/
  pc : Word
  /-- The instruction word, or none for FetchRange. -/
  op : Option Word
  /-- The first out-of-range address of a memory fault, else none. -/
  addr : Option (BitVec 17)
  deriving DecidableEq, Repr

/-- Memory: the cells that differ from the constructed contents, addresses strictly rising (20_memory.md R60). -/
abbrev Memory := List Host.Cell

/-- The framebuffer `FB[c][r]`, column first, as 10_state.md R48 and R56 index it; `true` is a cell that is 1. -/
abbrev Framebuffer := Vector (Vector Bool 32) 64

/-- The state of the core (10_state.md R56), and the two parameters and the draw counter of the model. -/
structure State where
  /-- Memory (20_memory.md R60). -/
  mem : Memory
  /-- General registers V0 to VF (R20). -/
  v : Vector Byte 16
  /-- The index register (R30). -/
  i : Word
  /-- The program counter (R25). -/
  pc : Word
  /-- The sixteen slots of the call stack (R35). -/
  stack : Vector Word 16
  /-- The stack pointer, 0 to 16 (R35). -/
  sp : Fin 17
  /-- The delay timer (R40). -/
  dt : Byte
  /-- The sound timer (R40). -/
  st : Byte
  /-- The input latch, true meaning pressed (R45). -/
  keys : Vector Bool 16
  /-- The framebuffer (R48). -/
  fb : Framebuffer
  /-- The FAULT register (R50). -/
  fault : Option FaultRecord
  /-- The WAIT register (R51). -/
  wait : Option RegNo
  /-- The parameter FONT (00_scope.md R8): configuration, which no operation changes. -/
  font : Font
  /-- The parameter KEY_WAIT_MODE (00_scope.md R8): configuration, which no operation changes. -/
  keyWaitMode : KeyWaitMode
  /-- The model's own counter of executed Cxkk (log entry 3). -/
  draws : Nat
  deriving DecidableEq, Repr

/-- The reasons a step stops with a fault: NONE. The five faults of R242 are taken as the spec describes their entry
(60_exceptions.md R241, R247), each a next state with the FAULT register set, so no constructor is needed (safe). -/
inductive Fault : Type
  deriving DecidableEq, Repr

/-- The reasons a step is refused. -/
inductive Refusal where
  /-- Raised by an arm of `exec` whose instruction has no meaning yet; no arm raises it (safe). -/
  | notModelled (mnemonic : String)
  deriving DecidableEq, Repr

/-- The state after construction with the given parameters (70_reset_and_hazards.md R280; 10_state.md R55). -/
def State.construct (font : Font) (mode : KeyWaitMode) : State where
  mem := []
  v := Vector.replicate 16 0
  i := 0
  pc := BitVec.ofNat 16 Config.programBase
  stack := Vector.replicate 16 0
  sp := 0
  dt := 0
  st := 0
  keys := Vector.replicate 16 false
  fb := Vector.replicate 64 (Vector.replicate 32 false)
  fault := none
  wait := none
  font := font
  keyWaitMode := mode
  draws := 0

/-- The machine right after construction with the defaults the spec takes (R8, R55). -/
def State.reset : State := State.construct defaultFont defaultKeyWaitMode

end Sys2Proof.Machine
end

