-- ==== Sys2Proof/Machine/Ops.lean ====
section
/-!
DEFINITION. The named operations over the state: registers, memory (20_memory.md R64, R65), the stack (10_state.md R36,
R37), the latch, the framebuffer cells, the program counter, the timer tick (60_exceptions.md R250) and taking a fault
(R241).
-/

namespace Sys2Proof.Machine

/-- The answer of a step or of a meaning. -/
abbrev Result := Host.Outcome State Fault Refusal

/-! ### General registers, index register, program counter -/

/-- `V[r]` (10_state.md R20). -/
def State.readV (s : State) (r : RegNo) : Byte := s.v[r]

/-- `V[r] <- b` (10_state.md R20). -/
def State.writeV (s : State) (r : RegNo) (b : Byte) : State := { s with v := s.v.set r b }

/-- VF, which doubles as the flag register (10_state.md R21). -/
def flagReg : RegNo := 0xF

/-- `I <- a` (10_state.md R30). -/
def State.setI (s : State) (a : Word) : State := { s with i := a }

/-- `pc <- t` (10_state.md R25). -/
def State.setPc (s : State) (t : Word) : State := { s with pc := t }

/-- `pc <- pc0 + 2` (00_scope.md R13). -/
def State.advance (s : State) : State := s.setPc (s.pc + 2)

/-- `pc <- (if c then pc0 + 4 else pc0 + 2)` (41_skips.md R146). -/
def State.skipIf (s : State) (c : Bool) : State := s.setPc (if c then s.pc + 4 else s.pc + 2)

/-! ### Memory -/

/-- What an address reads as while no cell lists it: the constructed contents, FONT below 0x050 and 0 from there on
(10_state.md R55; 20_memory.md R62). -/
def Memory.unlisted (font : Font) (a : Nat) : Byte := font[a]?.getD 0

/-- The byte a cell lists for an address. -/
def Memory.lookup : Memory → Nat → Option Byte
  | [], _ => none
  | (k, b) :: m, a => if k = a then some b else Memory.lookup m a

/-- The byte at address `a` (20_memory.md R71: a read has no side effect and returns the last value written). -/
def Memory.read (font : Font) (m : Memory) (a : Nat) : Byte := (Memory.lookup m a).getD (Memory.unlisted font a)

/-- Take address `a` out of the list. -/
def Memory.erase (a : Nat) : Memory → Memory
  | [] => []
  | (k, b) :: m => if k = a then Memory.erase a m else (k, b) :: Memory.erase a m

/-- Put address `a` into the list at its place. -/
def Memory.insert (a : Nat) (b : Byte) : Memory → Memory
  | [] => [(a, b)]
  | (k, c) :: m => if a < k then (a, b) :: (k, c) :: m else if a = k then (a, b) :: m else (k, c) :: Memory.insert a b m

/-- Store a byte, keeping the canonical form: the value an unlisted address reads as takes the entry out. -/
def Memory.write (font : Font) (m : Memory) (a : Nat) (b : Byte) : Memory :=
  if b = Memory.unlisted font a then Memory.erase a m else Memory.insert a b m

/-- The canonical form: addresses strictly rising, inside the 4096 bytes, and no cell equal to what its address reads as
unlisted. -/
abbrev Memory.wf (font : Font) (m : Memory) : Prop :=
  m.Pairwise (fun p q => p.1 < q.1) ∧ ∀ c ∈ m, c.1 < Config.memSize ∧ c.2 ≠ Memory.unlisted font c.1

/-- The byte at address `a`, as the host's accessors and the meanings read it (60_exceptions.md R266). -/
def State.readByte (s : State) (a : Nat) : Byte := Memory.read s.font s.mem a

/-- `mem[a] <- b` for an address that exists. -/
def State.writeByte (s : State) (a : Nat) (b : Byte) : State := { s with mem := Memory.write s.font s.mem a b }

/-- `MemRead(a, 1)` (20_memory.md R64): the byte, or the out-of-range address. -/
def State.memRead (s : State) (a : Nat) : Except Nat Byte :=
  if a ≥ Config.memSize then .error a else .ok (s.readByte a)

/-- `MemWrite(a, 1, b)` (20_memory.md R65): the state after, or the out-of-range address. -/
def State.memWrite (s : State) (a : Nat) (b : Byte) : Except Nat State :=
  if a ≥ Config.memSize then .error a else .ok (s.writeByte a b)

/-- `MemRead` at `a`, `a + 1`, and so on for `n` bytes, ascending (20_memory.md R71); the first address out of range ends it
(R67). -/
def State.memReads (s : State) (a : Nat) : Nat → Except Nat (List Byte)
  | 0 => .ok []
  | n + 1 =>
    match s.memRead a with
    | .error e => .error e
    | .ok b =>
      match State.memReads s (a + 1) n with
      | .error e => .error e
      | .ok bs => .ok (b :: bs)

/-- `MemWrite` at `a`, `a + 1`, and so on, ascending (20_memory.md R71); the first address out of range ends it, and the
caller drops what was written before (R67, 00_scope.md R12). -/
def State.memWrites (s : State) (a : Nat) : List Byte → Except Nat State
  | [] => .ok s
  | b :: bs =>
    match s.memWrite a b with
    | .error e => .error e
    | .ok t => State.memWrites t (a + 1) bs

/-! ### Call stack -/

/-- `Push(a)` (10_state.md R36); `none` when SP = 16. -/
def State.push (s : State) (a : Word) : Option State :=
  if h : s.sp.val < 16 then
    some { s with stack := s.stack.set s.sp.val a, sp := ⟨s.sp.val + 1, by omega⟩ }
  else none

/-- `Pop()` (10_state.md R37): the popped address and the state after; `none` when SP = 0. The slot is not cleared. -/
def State.pop (s : State) : Option (Word × State) :=
  if h : s.sp.val = 0 then none
  else some (s.stack[s.sp.val - 1], { s with sp := ⟨s.sp.val - 1, by omega⟩ })

/-! ### Input latch, timers, key wait -/

/-- `Key(k)` (10_state.md R45); false for an index of 16 or more (R46). -/
def State.key (s : State) (k : Nat) : Bool := s.keys[k]?.getD false

/-- Set a flag of the latch (60_exceptions.md R263). -/
def State.setKeyFlag (s : State) (k : Fin 16) (pressed : Bool) : State := { s with keys := s.keys.set k pressed }

/-- `DT <- b` (10_state.md R40). -/
def State.setDT (s : State) (b : Byte) : State := { s with dt := b }

/-- `ST <- b` (10_state.md R40). -/
def State.setST (s : State) (b : Byte) : State := { s with st := b }

/-- `WAIT <- w` (10_state.md R51). -/
def State.setWait (s : State) (w : Option RegNo) : State := { s with wait := w }

/-- One timer's share of the tick: down by one, never below 0 (60_exceptions.md R250). -/
def countDown (b : Byte) : Byte := if b > 0 then b - 1 else b

/-- `Tick()` (60_exceptions.md R250). -/
def State.tick (s : State) : State := { s with dt := countDown s.dt, st := countDown s.st }

/-! ### Random draws -/

/-- `Rand()`: the byte of this draw, a free value (40_load_alu.md R118), and the state with the draw counted. -/
def State.draw (s : State) : Byte × State := (Config.rand s.draws, { s with draws := s.draws + 1 })

/-! ### Framebuffer -/

/-- The cell at column `c`, row `r` (10_state.md R48). -/
def Framebuffer.get (f : Framebuffer) (c : Fin 64) (r : Fin 32) : Bool := f[c][r]

/-- `FB[c][r] <- FB[c][r] XOR 1` (43_display.md R182). -/
def Framebuffer.flip (f : Framebuffer) (c : Fin 64) (r : Fin 32) : Framebuffer := f.set c (f[c].set r (!f[c][r]))

/-- Every cell 0 (43_display.md R180). -/
def Framebuffer.clear : Framebuffer := Vector.replicate 64 (Vector.replicate 32 false)

/-- The cell at column `c`, row `r` of the state's framebuffer (10_state.md R48). -/
def State.pixel (s : State) (c : Fin 64) (r : Fin 32) : Bool := Framebuffer.get s.fb c r

/-- Write the framebuffer. -/
def State.setFb (s : State) (f : Framebuffer) : State := { s with fb := f }

/-! ### Faults -/

/-- The number of a fault code (60_exceptions.md R242). -/
def FaultCode.number : FaultCode → BitVec 3
  | .fetchRange => 1
  | .memReadRange => 2
  | .memWriteRange => 3
  | .stackOverflow => 4
  | .stackUnderflow => 5

/-- Taking a fault (60_exceptions.md R241, R247): from the state at the start of the step, only FAULT is written; `pc` keeps
`pc0`. There is no return from it but the host's `reset` and `loadROM` (R248), in HostOps.lean. -/
def State.raise (s : State) (code : FaultCode) (op : Option Word) (addr : Option Nat) : State :=
  { s with fault := some { code := code, pc := s.pc, op := op, addr := addr.map (BitVec.ofNat 17) } }

/-- A fault of an executed instruction: `op` is its word (60_exceptions.md R242). -/
def State.raiseAt (s : State) (code : FaultCode) (i : Instr) (addr : Option Nat) : State :=
  s.raise code (some (encode i)) addr

/-! ### Fetch -/

/-- The fetch of 30_encoding.md R90 at `pc0 = pc`: the word, or the state with FetchRange taken (R66, R243), whose address is
`max(pc0, 4096)` (R242). -/
def State.fetch (s : State) : Except State Word :=
  let pc0 := s.pc.toNat
  if pc0 + 1 ≥ Config.memSize then .error (s.raise .fetchRange none (some (max pc0 Config.memSize)))
  else .ok (wordOfBytes (s.readByte pc0) (s.readByte (pc0 + 1)))

/-- Store an instruction word at `a` and `a + 1`, high byte first (20_memory.md R68). -/
def State.storeWord (s : State) (a : Nat) (op : Word) : State :=
  (s.writeByte a (firstByte op)).writeByte (a + 1) (secondByte op)

/-- The state whose next step fetches `op`: not faulted, not waiting, `pc` where two bytes can be fetched (0x200 if it was
not), and the word stored there. -/
def State.placeWord (s : State) (op : Word) : State :=
  let pc := if s.pc.toNat + 1 < Config.memSize then s.pc else BitVec.ofNat 16 Config.programBase
  { s with fault := none, wait := none, pc := pc }.storeWord pc.toNat op

end Sys2Proof.Machine
end

