-- ==== Sys2Proof/Machine/Cycle.lean ====
section
/-!
DEFINITION. What a step does around the execute phase (30_encoding.md R92): the faulted and the held step, the fetch, the
unmapped words, the tick, and what `step` reports to the host.
-/

namespace Sys2Proof.Machine

/-- What a step finds before the execute phase. -/
inductive Issue where
  /-- The step ends in this state, without an instruction. -/
  | settled (s : State)
  /-- This instruction is executed. -/
  | run (i : Instr)
  deriving DecidableEq, Repr

/-- An unmapped word: `pc` advances and the timers tick, nothing else (30_encoding.md R86). -/
def ignoredWord (s : State) : State := s.advance.tick

/-- The step up to the execute phase: a faulted core changes nothing (60_exceptions.md R246); a core held by WAIT only ticks
(R252); the fetch may take FetchRange (R243); an unmapped word is ignored (30_encoding.md R86). -/
def issue (s : State) : Issue :=
  if s.fault.isSome then .settled s
  else if s.wait.isSome then .settled s.tick
  else
    match s.fetch with
    | .error t => .settled t
    | .ok op =>
      match decode op with
      | .error _ => .settled (ignoredWord s)
      | .ok i => .run i

/-- The end of a step after the execute phase: the tick, unless the step faulted (30_encoding.md R92; 92_eei_decisions.md
D30). -/
def finish (s : State) : State := if s.fault.isSome then s else s.tick

/-- What `step` returns to the host (60_exceptions.md R260). -/
inductive StepResult where
  /-- The step completed. -/
  | ok
  /-- This step took the fault (R241). -/
  | fault (r : FaultRecord)
  /-- The core was faulted before the step (R246). -/
  | faulted (r : FaultRecord)
  deriving DecidableEq, Repr

/-- The result of a step from `s` to `t`, read from their FAULT registers. -/
def stepResult (s t : State) : StepResult :=
  match s.fault, t.fault with
  | some r, _ => .faulted r
  | none, some r => .fault r
  | none, none => .ok

end Sys2Proof.Machine
end

