-- ==== Sys2Proof/Machine/Operands.lean ====
section
/-!
DEFINITION. Operand forms (30_encoding.md R83): zero-extended addresses, register blocks, the key index, BCD digits and the
pixels of a sprite.
-/

namespace Sys2Proof.Machine

/-- `zext_16(nnn)` (30_encoding.md R83). -/
def addr16 (nnn : BitVec 12) : Word := nnn.zeroExtend 16

/-- A byte zero-extended to 16 bits, for Bnnn and Fx1E (42_control.md R168; 44_index_memory.md R200). -/
def byte16 (b : Byte) : Word := b.zeroExtend 16

/-- `Key(V[x])`, the condition Ex9E and ExA1 read (41_skips.md R144, R145). -/
def State.keyAt (s : State) (x : RegNo) : Bool := s.key (s.readV x).toNat

/-- The address of glyph `d`: FONT_BASE + d * GLYPH_BYTES (43_display.md R186; 00_scope.md R7). -/
def glyphAddr (d : Byte) : Word := BitVec.ofNat 16 (d.toNat * 5)

/-- The base address of a memory operand: `I` as a natural number, never wrapped (44_index_memory.md R208). -/
def State.memBase (s : State) : Nat := s.i.toNat

/-- How many bytes Fx55 and Fx65 access: x + 1 (44_index_memory.md R204, R206). -/
def blockLen (x : RegNo) : Nat := x.val + 1

/-- The values of V0 to Vx, ascending (44_index_memory.md R204). -/
def State.regBlock (s : State) (x : RegNo) : List Byte := s.v.toList.take (blockLen x)

/-- Write a list of bytes to V[k], V[k+1], and so on (44_index_memory.md R206). -/
def State.writeRegBlock (s : State) : Nat → List Byte → State
  | _, [] => s
  | k, b :: bs => if h : k < 16 then State.writeRegBlock (s.writeV ⟨k, h⟩ b) (k + 1) bs else s

/-- Hundreds, tens and units of a byte (44_index_memory.md R202). -/
def bcdDigits (b : Byte) : List Byte :=
  [BitVec.ofNat 8 (b.toNat / 100), BitVec.ofNat 8 (b.toNat / 10 % 10), BitVec.ofNat 8 (b.toNat % 10)]

/-- The framebuffer and the collision flag while a sprite is drawn. -/
abbrev Drawing := Framebuffer × Bool

/-- Column `bx + col` modulo 64 (43_display.md R182). -/
def pixelColumn (bx : Byte) (col : Nat) : Fin 64 := Fin.ofNat 64 (bx.toNat + col)

/-- Row `by + r` modulo 32 (43_display.md R182). -/
def pixelRow (by' : Byte) (r : Nat) : Fin 32 := Fin.ofNat 32 (by'.toNat + r)

/-- One sprite bit: column offset `col` is bit `7 - col` of the row byte; a set bit records a collision and toggles its cell
(43_display.md R182). -/
def drawPixel (bx by' : Byte) (r : Nat) (row : Byte) (d : Drawing) (col : Nat) : Drawing :=
  if row.getLsbD (7 - col) then
    let c := pixelColumn bx col
    let rr := pixelRow by' r
    (Framebuffer.flip d.1 c rr, d.2 || Framebuffer.get d.1 c rr)
  else d

/-- The eight column offsets of one sprite row, ascending (43_display.md R182). -/
def drawRow (bx by' : Byte) (r : Nat) (row : Byte) (d : Drawing) : Drawing :=
  [0, 1, 2, 3, 4, 5, 6, 7].foldl (drawPixel bx by' r row) d

/-- The rows of a sprite from row offset `r` on, ascending (43_display.md R182). -/
def drawRows (bx by' : Byte) : Nat → List Byte → Drawing → Drawing
  | _, [], d => d
  | r, row :: rows, d => drawRows bx by' (r + 1) rows (drawRow bx by' r row d)

end Sys2Proof.Machine
end

