-- ==== Sys2Proof/Machine/Control.lean ====
section
/-!
DEFINITION. Control transfer: 42_control.md. A transfer sets `pc` to its target and nothing is added afterwards (R170).
-/

namespace Sys2Proof.Machine

/-- 0nnn SYS nnn: nothing but the advance, as an unmapped word (R160). -/
def execSys (_nnn : BitVec 12) (s : State) : Result := .next s.advance

/-- 1nnn JP nnn (R162). -/
def execJp (nnn : BitVec 12) (s : State) : Result := .next (s.setPc (addr16 nnn))

/-- 2nnn CALL nnn: pushes `pc0`, not `pc0 + 2`; StackOverflow when SP = 16 (R164). -/
def execCall (nnn : BitVec 12) (s : State) : Result :=
  match s.push s.pc with
  | none => .next (s.raiseAt .stackOverflow (.call nnn) none)
  | some t => .next (t.setPc (addr16 nnn))

/-- 00EE RET: to the popped address plus 2; StackUnderflow when SP = 0 (R166). -/
def execRet (s : State) : Result :=
  match s.pop with
  | none => .next (s.raiseAt .stackUnderflow .ret none)
  | some (a, t) => .next (t.setPc (a + 2))

/-- Bnnn JP V0, nnn: the sum is not masked to 12 bits (R168). -/
def execJpV0 (nnn : BitVec 12) (s : State) : Result := .next (s.setPc (addr16 nnn + byte16 (s.readV 0)))

end Sys2Proof.Machine
end

