-- ==== Sys2Proof/Machine/Flags.lean ====
section
/-!
DEFINITION. The flag computations, VF's values after 8xy4 to 8xy7, 8xyE and Dxyn (10_state.md R21; 40_load_alu.md R110 to
R114; 43_display.md R182), and the write of a result and its flag in the order of R101.
-/

namespace Sys2Proof.Machine

/-- A flag as the byte VF holds: 1 or 0. -/
def flagByte (b : Bool) : Byte := if b then 1 else 0

/-- Carry of 8xy4: the untruncated sum exceeds 255 (40_load_alu.md R110; 90_conflicts.md C4). -/
def carryFlag (a b : Byte) : Bool := a.toNat + b.toNat > 255

/-- No borrow in `a - b`: `a ≥ b` before the subtraction (40_load_alu.md R111, R113). -/
def notBorrowFlag (a b : Byte) : Bool := a.toNat ≥ b.toNat

/-- The bit 8xy6 shifts out: bit 0 (40_load_alu.md R112). -/
def shiftOutRight (a : Byte) : Bool := a.getLsbD 0

/-- The bit 8xyE shifts out: bit 7 (40_load_alu.md R114). -/
def shiftOutLeft (a : Byte) : Bool := a.getLsbD 7

/-- `V[0xF] <- flag`. -/
def State.writeFlag (s : State) (flag : Bool) : State := s.writeV flagReg (flagByte flag)

/-- The result is written first and the flag second, so the flag wins when x = 0xF (40_load_alu.md R101). -/
def State.writeResultFlag (s : State) (x : RegNo) (result : Byte) (flag : Bool) : State :=
  (s.writeV x result).writeFlag flag

end Sys2Proof.Machine
end

