-- ==== Sys2Proof/Machine/Display.lean ====
section
/-!
DEFINITION. Framebuffer instructions and font addressing: 43_display.md.
-/

namespace Sys2Proof.Machine

/-- 00E0 CLS (R180). -/
def execCls (s : State) : Result := .next (s.setFb Framebuffer.clear).advance

/-- Dxyn DRW Vx, Vy, n (R182): all rows are read first, and MemReadRange leaves every cell and register as it was; then the
sprite is drawn and VF is the collision flag. -/
def execDrw (x y : RegNo) (n : BitVec 4) (s : State) : Result :=
  match s.memReads s.memBase n.toNat with
  | .error a => .next (s.raiseAt .memReadRange (.drw x y n) (some a))
  | .ok rows =>
    let d := drawRows (s.readV x) (s.readV y) 0 rows (s.fb, false)
    .next ((s.setFb d.1).writeFlag d.2).advance

/-- Fx29 LD F, Vx (R186). -/
def execLdF (x : RegNo) (s : State) : Result := .next (s.setI (glyphAddr (s.readV x))).advance

end Sys2Proof.Machine
end

