-- ==== Sys2Proof/Machine/IndexMemory.lean ====
section
/-!
DEFINITION. Index arithmetic and register/memory block operations: 44_index_memory.md. An address out of range aborts the
whole instruction, and `I` is never written by the block operations (R208).
-/

namespace Sys2Proof.Machine

/-- Fx1E ADD I, Vx: modulo 2^16, no flag (R200). -/
def execAddI (x : RegNo) (s : State) : Result := .next (s.setI (s.i + byte16 (s.readV x))).advance

/-- Fx33 LD B, Vx: hundreds, tens and units at I, I + 1, I + 2 (R202). -/
def execLdB (x : RegNo) (s : State) : Result :=
  match s.memWrites s.memBase (bcdDigits (s.readV x)) with
  | .error a => .next (s.raiseAt .memWriteRange (.ldB x) (some a))
  | .ok t => .next t.advance

/-- Fx55 LD [I], Vx: V0 to Vx to memory at I (R204). -/
def execStoreRegs (x : RegNo) (s : State) : Result :=
  match s.memWrites s.memBase (s.regBlock x) with
  | .error a => .next (s.raiseAt .memWriteRange (.storeRegs x) (some a))
  | .ok t => .next t.advance

/-- Fx65 LD Vx, [I]: memory at I to V0 to Vx (R206). -/
def execLoadRegs (x : RegNo) (s : State) : Result :=
  match s.memReads s.memBase (blockLen x) with
  | .error a => .next (s.raiseAt .memReadRange (.loadRegs x) (some a))
  | .ok bytes => .next (s.writeRegBlock 0 bytes).advance

end Sys2Proof.Machine
end

