-- ==== Sys2Proof/Machine/LoadAlu.lean ====
section
/-!
DEFINITION. Loads, arithmetic, logic, shifts and random: 40_load_alu.md. None accesses memory, the stack, the timers, the
latch or the framebuffer, and none raises a fault (R100); operands are read before the first write.
-/

namespace Sys2Proof.Machine

/-- 6xkk LD Vx, kk (R102). -/
def execLdImm (x : RegNo) (kk : Byte) (s : State) : Result := .next (s.writeV x kk).advance

/-- 7xkk ADD Vx, kk: no flag (R104). -/
def execAddImm (x : RegNo) (kk : Byte) (s : State) : Result := .next (s.writeV x (s.readV x + kk)).advance

/-- 8xy0 LD Vx, Vy (R106). -/
def execLdReg (x y : RegNo) (s : State) : Result := .next (s.writeV x (s.readV y)).advance

/-- 8xy1 OR Vx, Vy: no flag (R107). -/
def execOrReg (x y : RegNo) (s : State) : Result := .next (s.writeV x (s.readV x ||| s.readV y)).advance

/-- 8xy2 AND Vx, Vy: no flag (R108). -/
def execAndReg (x y : RegNo) (s : State) : Result := .next (s.writeV x (s.readV x &&& s.readV y)).advance

/-- 8xy3 XOR Vx, Vy: no flag (R109). -/
def execXorReg (x y : RegNo) (s : State) : Result := .next (s.writeV x (s.readV x ^^^ s.readV y)).advance

/-- 8xy4 ADD Vx, Vy: VF is the carry (R110). -/
def execAddReg (x y : RegNo) (s : State) : Result :=
  let a := s.readV x
  let b := s.readV y
  .next (s.writeResultFlag x (a + b) (carryFlag a b)).advance

/-- 8xy5 SUB Vx, Vy: VF is 1 when no borrow occurred (R111). -/
def execSubReg (x y : RegNo) (s : State) : Result :=
  let a := s.readV x
  let b := s.readV y
  .next (s.writeResultFlag x (a - b) (notBorrowFlag a b)).advance

/-- 8xy6 SHR Vx: VF is the old bit 0; Vy is not used (R112). -/
def execShr (x _y : RegNo) (s : State) : Result :=
  let a := s.readV x
  .next (s.writeResultFlag x (a >>> 1) (shiftOutRight a)).advance

/-- 8xy7 SUBN Vx, Vy: the operands of SUB swapped (R113). -/
def execSubnReg (x y : RegNo) (s : State) : Result :=
  let a := s.readV x
  let b := s.readV y
  .next (s.writeResultFlag x (b - a) (notBorrowFlag b a)).advance

/-- 8xyE SHL Vx: VF is the old bit 7; Vy is not used (R114). -/
def execShl (x _y : RegNo) (s : State) : Result :=
  let a := s.readV x
  .next (s.writeResultFlag x (a <<< 1) (shiftOutLeft a)).advance

/-- Annn LD I, nnn (R116). -/
def execLdI (nnn : BitVec 12) (s : State) : Result := .next (s.setI (addr16 nnn)).advance

/-- Cxkk RND Vx, kk: one draw, a free value (R118, log entry 3). -/
def execRnd (x : RegNo) (kk : Byte) (s : State) : Result :=
  let (r, t) := s.draw
  .next (t.writeV x (r &&& kk)).advance

end Sys2Proof.Machine
end

