-- ==== Sys2Proof/Machine/Skips.lean ====
section
/-!
DEFINITION. Conditional skips: 41_skips.md. A skip evaluates its condition and writes only the program counter (R146).
-/

namespace Sys2Proof.Machine

/-- 3xkk SE Vx, kk (R140). -/
def execSeImm (x : RegNo) (kk : Byte) (s : State) : Result := .next (s.skipIf (s.readV x == kk))

/-- 4xkk SNE Vx, kk (R141). -/
def execSneImm (x : RegNo) (kk : Byte) (s : State) : Result := .next (s.skipIf (s.readV x != kk))

/-- 5xyN SE Vx, Vy (R142). -/
def execSeReg (x y : RegNo) (s : State) : Result := .next (s.skipIf (s.readV x == s.readV y))

/-- 9xyN SNE Vx, Vy (R143). -/
def execSneReg (x y : RegNo) (s : State) : Result := .next (s.skipIf (s.readV x != s.readV y))

/-- Ex9E SKP Vx: skip if the key is pressed (R144). -/
def execSkp (x : RegNo) (s : State) : Result := .next (s.skipIf (s.keyAt x))

/-- ExA1 SKNP Vx: skip if the key is not pressed (R145). -/
def execSknp (x : RegNo) (s : State) : Result := .next (s.skipIf (!s.keyAt x))

end Sys2Proof.Machine
end

