-- ==== Sys2Proof/Machine/TimersKeys.lean ====
section
/-!
DEFINITION. Timer moves and key wait: 45_timers_keys.md. The effect happens in the execute phase; the tick of the same step
follows it (R228).
-/

namespace Sys2Proof.Machine

/-- Fx07 LD Vx, DT (R220). -/
def execLdVxDt (x : RegNo) (s : State) : Result := .next (s.writeV x s.dt).advance

/-- Fx0A LD Vx, K: no effect but the advance in mode `noop` (R224), the wait for a key press in mode `wait` (R226). -/
def execLdVxK (x : RegNo) (s : State) : Result :=
  match s.keyWaitMode with
  | .noop => .next s.advance
  | .wait => .next (s.setWait (some x)).advance

/-- Fx15 LD DT, Vx (R221). -/
def execLdDtVx (x : RegNo) (s : State) : Result := .next (s.setDT (s.readV x)).advance

/-- Fx18 LD ST, Vx (R222). -/
def execLdStVx (x : RegNo) (s : State) : Result := .next (s.setST (s.readV x)).advance

end Sys2Proof.Machine
end

