-- ==== Sys2Proof/Machine/Step.lean ====
section
/-!
DEFINITION. The `step` host operation (30_encoding.md R92).
-/

namespace Sys2Proof.Machine

/-- One step: fetch, execute, program-counter update, timer tick, once (R92). -/
def step (s : State) : Host.Outcome State Fault Refusal :=
  match issue s with
  | .settled t => .next t
  | .run i =>
    match exec i s with
    | .next t => .next (finish t)
    | .fault r => .fault r
    | .refused r => .refused r

/-- `s` with the instruction of the opcode table's numbering stored where the next step fetches (log entry 4). -/
def State.withFetchWord (s : State) (nbits w : Nat) : State := s.placeWord (tableWord nbits w)

end Sys2Proof.Machine
end

