-- ==== Sys2Proof/Machine/HostOps.lean ====
section
/-!
DEFINITION. The host operations of 60_exceptions.md R260 other than construction (State.construct) and `step`: `reset`,
`loadROM`, `setKey` and `getScreen`. The state accessors of R266 are the fields of State, `readV`, `readByte`, `key` and
`pixel`.
-/

namespace Sys2Proof.Machine

/-- `reset()` (70_reset_and_hazards.md R281): memory and the stack slots are unchanged, and so are the parameters and the
model's draw counter. -/
def State.resetOp (s : State) : State :=
  { s with
    pc := BitVec.ofNat 16 Config.programBase
    sp := 0
    i := 0
    dt := 0
    st := 0
    v := Vector.replicate 16 0
    fb := Framebuffer.clear
    keys := Vector.replicate 16 false
    fault := none
    wait := none }

/-- The result of `loadROM` (R283). -/
inductive LoadResult where
  | ok
  | romTooLarge
  deriving DecidableEq, Repr

/-- Write the bytes of a program at `a`, `a + 1`, and so on (R283). -/
def State.writeImage (s : State) (a : Nat) : List Byte → State
  | [] => s
  | b :: bs => State.writeImage (s.writeByte a b) (a + 1) bs

/-- `loadROM(bytes)` (R283). -/
def State.loadROM (s : State) (bytes : List Byte) : LoadResult × State :=
  if bytes.length > Config.maxRom then (.romTooLarge, s)
  else (.ok, (s.writeImage Config.programBase bytes).resetOp)

/-- The result of `setKey` (60_exceptions.md R263). -/
inductive SetKeyResult where
  | ok
  | keyIndexInvalid
  deriving DecidableEq, Repr

/-- A key press ends a wait: the waiting register takes the key's index (R263). -/
def State.releaseWait (s : State) (index : Fin 16) (pressed : Bool) : State :=
  match pressed, s.wait with
  | true, some r => (s.writeV r (BitVec.ofNat 8 index.val)).setWait none
  | _, _ => s

/-- `setKey(index, pressed)` (R263); the host's index may be any integer. -/
def State.setKey (s : State) (index : Int) (pressed : Bool) : SetKeyResult × State :=
  if h : 0 ≤ index ∧ index < 16 then
    let k : Fin 16 := ⟨index.toNat, by omega⟩
    (.ok, (s.setKeyFlag k pressed).releaseWait k pressed)
  else (.keyIndexInvalid, s)

/-- `getScreen()` (R264): the 2048 cells, row 0 first, column 0 first in each row. -/
def State.getScreen (s : State) : List Bool :=
  (List.finRange 32).flatMap fun r => (List.finRange 64).map fun c => s.pixel c r

/-- The host operations after construction (R260). -/
inductive HostOp where
  | step
  | reset
  | loadROM (bytes : List Byte)
  | setKey (index : Int) (pressed : Bool)
  | getScreen
  deriving DecidableEq, Repr

/-- The state one host operation leaves (R260, R261). A step that answered no next state would leave the state as it was; no
step does so. -/
def State.apply (s : State) : HostOp → State
  | .step => match step s with
    | .next t => t
    | .fault _ => s
    | .refused _ => s
  | .reset => s.resetOp
  | .loadROM bytes => (s.loadROM bytes).2
  | .setKey index pressed => (s.setKey index pressed).2
  | .getScreen => s

/-- The state a sequence of host operations leaves, each on the state the one before left (R261). -/
def State.applyAll (s : State) (ops : List HostOp) : State := ops.foldl State.apply s

end Sys2Proof.Machine
end

