-- ==== Sys2Proof/Safety.lean ====
section
/-!
DEFINITION. The terms claims use: words written as numbers, what a step fetches, frames, the fault a step must take, who may
write what, the invariant of every reachable state, and runs (60_exceptions.md R267).
-/

namespace Sys2Proof.Machine

/-! ### Words as numbers (30_encoding.md R81, R9) -/

/-- The word `g nnn` as a number. -/
def wordNNN (g : Nat) (nnn : BitVec 12) : Word := BitVec.ofNat 16 (g * 4096 + nnn.toNat)

/-- The word `g x kk` as a number. -/
def wordXKK (g : Nat) (x : RegNo) (kk : Byte) : Word := BitVec.ofNat 16 (g * 4096 + x.val * 256 + kk.toNat)

/-- The word `g x y n` as a number. -/
def wordXYN (g : Nat) (x y : RegNo) (n : BitVec 4) : Word :=
  BitVec.ofNat 16 (g * 4096 + x.val * 256 + y.val * 16 + n.toNat)

/-- The unmapped words as R86 lists them, group 0 among them: SYS nnn "behaves identically". -/
def IsIgnoredWord (op : Word) : Prop :=
  (op.toNat / 4096 = 0x8 ∧ op.toNat % 16 ∈ [0x8, 0x9, 0xA, 0xB, 0xC, 0xD, 0xF]) ∨
  (op.toNat / 4096 = 0xE ∧ op.toNat % 256 ∉ [0x9E, 0xA1]) ∨
  (op.toNat / 4096 = 0xF ∧ op.toNat % 256 ∉ [0x07, 0x0A, 0x15, 0x18, 0x1E, 0x29, 0x33, 0x55, 0x65]) ∨
  (op.toNat / 4096 = 0x0 ∧ op ≠ 0x00E0#16 ∧ op ≠ 0x00EE#16)

/-! ### What a step fetches -/

/-- The step at `s` fetches the word `op`: the core is neither faulted nor held, both bytes exist, and the word is
`mem[pc0] * 256 + mem[pc0 + 1]` (30_encoding.md R90, R92). -/
structure Fetches (s : State) (op : Word) : Prop where
  not_faulted : s.fault = none
  not_held : s.wait = none
  in_range : s.pc.toNat + 1 < 4096
  bytes : op.toNat = (s.readByte s.pc.toNat).toNat * 256 + (s.readByte (s.pc.toNat + 1)).toNat

/-- The step at `s` executes the instruction `i`. -/
def Executes (s : State) (i : Instr) : Prop := ∃ op, Fetches s op ∧ decode op = .ok i

/-! ### Frames -/

/-- What an instruction may change besides `pc`. Everything a field does not name stays as it was. -/
structure Footprint where
  /-- General registers. -/
  regs : List RegNo := []
  /-- The index register. -/
  index : Bool := false
  /-- The stack pointer and the stack slots. -/
  stack : Bool := false
  /-- The delay timer. -/
  delay : Bool := false
  /-- The sound timer. -/
  sound : Bool := false
  /-- The input latch. -/
  keys : Bool := false
  /-- The framebuffer. -/
  screen : Bool := false
  /-- The FAULT register. -/
  faultReg : Bool := false
  /-- The WAIT register. -/
  waitReg : Bool := false
  /-- The lowest stored address. -/
  memBase : Nat := 0
  /-- How many bytes are stored. -/
  memLen : Nat := 0
  /-- The model's draw counter. -/
  draws : Bool := false

/-- From `s` to `t` nothing outside the footprint changes; memory is compared byte by byte through the model's read. -/
structure Frame (f : Footprint) (s t : State) : Prop where
  regs : ∀ r, r ∉ f.regs → t.readV r = s.readV r
  index : f.index = false → t.i = s.i
  stack : f.stack = false → t.sp = s.sp ∧ t.stack = s.stack
  delay : f.delay = false → t.dt = s.dt
  sound : f.sound = false → t.st = s.st
  keys : f.keys = false → t.keys = s.keys
  screen : f.screen = false → ∀ c r, t.pixel c r = s.pixel c r
  faultReg : f.faultReg = false → t.fault = s.fault
  waitReg : f.waitReg = false → t.wait = s.wait
  mem : ∀ a, ¬ (f.memBase ≤ a ∧ a < f.memBase + f.memLen) → t.readByte a = s.readByte a
  draws : f.draws = false → t.draws = s.draws
  font : t.font = s.font
  keyWaitMode : t.keyWaitMode = s.keyWaitMode

/-! ### Timers -/

/-- `max(0, value_before - 1)` on a timer (60_exceptions.md R251). -/
def TickedFrom (before after : Byte) : Prop := after.toNat = before.toNat - 1

/-! ### Sprites (43_display.md R182) -/

/-- A set bit of the n-row sprite at `I`, drawn at (V[x], V[y]), lands on cell (c, r). -/
def SpriteCovers (s : State) (x y : RegNo) (n : BitVec 4) (c : Fin 64) (r : Fin 32) : Prop :=
  ∃ row col : Nat, row < n.toNat ∧ col < 8 ∧ (s.readByte (s.i.toNat + row)).getLsbD (7 - col) = true ∧
    c.val = ((s.readV x).toNat + col) % 64 ∧ r.val = ((s.readV y).toNat + row) % 32

/-! ### Faults (60_exceptions.md R242) -/

/-- The FAULT record of a memory fault at `s` in an access from `I` on: the address is the lowest one out of range,
max(I, 4096) (20_memory.md R67; 44_index_memory.md R202, R204, R206). -/
def rangeFault (code : FaultCode) (s : State) (op : Word) : FaultRecord :=
  { code := code, pc := s.pc, op := some op, addr := some (BitVec.ofNat 17 (max s.i.toNat 4096)) }

/-- The FAULT record of an access to `len` bytes at `I`, none when every byte exists. -/
def blockFault (code : FaultCode) (s : State) (op : Word) (len : Nat) : Option FaultRecord :=
  if 0 < len ∧ 4096 < s.i.toNat + len then some (rangeFault code s op) else none

/-- The fault the table of R242 gives for executing `i`, whose word is `op`, at `s`. -/
def instrFault (s : State) (op : Word) : Instr → Option FaultRecord
  | .drw _ _ n => blockFault .memReadRange s op n.toNat
  | .loadRegs x => blockFault .memReadRange s op (x.val + 1)
  | .ldB _ => blockFault .memWriteRange s op 3
  | .storeRegs x => blockFault .memWriteRange s op (x.val + 1)
  | .call _ =>
    if s.sp.val = 16 then some { code := .stackOverflow, pc := s.pc, op := some op, addr := none } else none
  | .ret =>
    if s.sp.val = 0 then some { code := .stackUnderflow, pc := s.pc, op := some op, addr := none } else none
  | .cls | .sys _ | .jp _ | .seImm _ _ | .sneImm _ _ | .seReg _ _ | .ldImm _ _ | .addImm _ _ | .ldReg _ _ | .orReg _ _
  | .andReg _ _ | .xorReg _ _ | .addReg _ _ | .subReg _ _ | .shr _ _ | .subnReg _ _ | .shl _ _ | .sneReg _ _ | .ldI _
  | .jpV0 _ | .rnd _ _ | .skp _ | .sknp _ | .ldVxDt _ | .ldVxK _ | .ldDtVx _ | .ldStVx _ | .addI _ | .ldF _ => none

/-- The FAULT record of FetchRange at `s` (R242, R243). -/
def fetchFault (s : State) : FaultRecord :=
  { code := .fetchRange, pc := s.pc, op := none, addr := some (BitVec.ofNat 17 (max s.pc.toNat 4096)) }

/-! ### Who writes what -/

/-- The general registers an instruction may write in its step, the table of 10_state.md R22. (Fx0A in `wait` mode is listed
there for the key press, which is `setKey`'s write.) -/
def writesReg : Instr → RegNo → Prop
  | .ldImm x _, r | .addImm x _, r | .ldReg x _, r | .orReg x _, r | .andReg x _, r | .xorReg x _, r | .rnd x _, r
  | .ldVxDt x, r => r = x
  | .addReg x _, r | .subReg x _, r | .shr x _, r | .subnReg x _, r | .shl x _, r => r = x ∨ r = 0xF
  | .drw _ _ _, r => r = 0xF
  | .loadRegs x, r => r ≤ x
  | .cls, _ | .ret, _ | .sys _, _ | .jp _, _ | .call _, _ | .seImm _ _, _ | .sneImm _ _, _ | .seReg _ _, _
  | .sneReg _ _, _ | .ldI _, _ | .jpV0 _, _ | .skp _, _ | .sknp _, _ | .ldVxK _, _ | .ldDtVx _, _ | .ldStVx _, _
  | .addI _, _ | .ldF _, _ | .ldB _, _ | .storeRegs _, _ => False

/-! ### The invariant -/

/-- What the FAULT register of a state that was reached holds (60_exceptions.md R241, R242, R243). -/
def FaultRecord.Fits (s : State) (r : FaultRecord) : Prop :=
  r.pc = s.pc ∧
  match r.code with
  | .fetchRange => r = fetchFault s ∧ 4096 ≤ s.pc.toNat + 1
  | .memReadRange | .memWriteRange => r.op.isSome = true ∧ r.addr = some (BitVec.ofNat 17 (max s.i.toNat 4096))
  | .stackOverflow => r.op.isSome = true ∧ r.addr = none ∧ s.sp.val = 16
  | .stackUnderflow => r.op.isSome = true ∧ r.addr = none ∧ s.sp.val = 0

/-- What holds of every state that host operations reach from construction. -/
structure Inv (s : State) : Prop where
  /-- Memory is in its canonical form, all of it below 4096 (20_memory.md R60). -/
  mem : Memory.wf s.font s.mem
  /-- "The largest value any non-faulting step can write is 0x10FE" (10_state.md R29). -/
  pc : s.pc.toNat ≤ 0x10FE
  /-- A stack slot holds the address of a fetched call, at most 0x0FFE (42_control.md R166). -/
  stack : ∀ k : Fin 16, s.stack[k].toNat ≤ 0x0FFE
  /-- With KEY_WAIT_MODE = noop, WAIT is always none (10_state.md R51). -/
  noop : s.keyWaitMode = .noop → s.wait = none
  /-- "WAIT is none whenever FAULT is set" (60_exceptions.md R263). -/
  fault_wait : s.fault.isSome = true → s.wait = none
  /-- The FAULT register fits the state it was taken in. -/
  fault : ∀ r, s.fault = some r → FaultRecord.Fits s r

/-! ### Runs (60_exceptions.md R267) -/

/-- "The sequence of states produced by a sequence of host operations": the first state, then the state each operation
leaves. -/
def State.states (s : State) : List HostOp → List State
  | [] => [s]
  | op :: ops => s :: State.states (s.apply op) ops

/-- A state that some host operations reach from construction with some parameters (60_exceptions.md R260). -/
def Reached (s : State) : Prop :=
  ∃ (font : Font) (mode : KeyWaitMode) (ops : List HostOp), s = (State.construct font mode).applyAll ops

/-- What the host may call while a program runs without starting it anew: steps, key events and reads of the screen
(60_exceptions.md R268). -/
def HostOp.duringRun : HostOp → Bool
  | .step | .setKey _ _ | .getScreen => true
  | .reset | .loadROM _ => false

/-- `ops` is a run to step `n` of `program`, loaded in any reached state: `n` calls of `step` from the state
`loadROM(program)` leaves, the run ending after the last of them. Which keys are pressed and released before each step is
free, and so is what memory held before the load. -/
structure ProgramRun (s : State) (program : List Byte) (ops : List HostOp) (n : Nat) : Prop where
  reached : Reached s
  loaded : program.length ≤ Config.maxRom
  during : ∀ op ∈ ops, op.duringRun = true
  steps : ops.count .step = n
  ends : ops = [] ∨ ops.getLast? = some .step

/-- The state at the end of a run of `program`, loaded in `s`. -/
def runTo (s : State) (program : List Byte) (ops : List HostOp) : State := (s.loadROM program).2.applyAll ops

/-- One of the steps among `ops`, called from `s` on, returned `Fault`. -/
def StepFaults (s : State) : List HostOp → Prop
  | [] => False
  | op :: ops => (op = .step ∧ ∃ r, stepResult s (s.apply op) = .fault r) ∨ StepFaults (s.apply op) ops

/-- The run has faulted: "if any of those steps returned `Fault`". -/
def RunFaults (s : State) (program : List Byte) (ops : List HostOp) : Prop := StepFaults (s.loadROM program).2 ops

/-- A safe run: it has not faulted. -/
def SafeRun (s : State) (program : List Byte) (ops : List HostOp) : Prop := ¬ RunFaults s program ops

/-- The step at `s` fetches a jump to itself, the idle idiom. -/
def Idles (s : State) : Prop := ∃ nnn : BitVec 12, Executes s (.jp nnn) ∧ nnn.toNat = s.pc.toNat

/-- One of the steps among `ops`, called from `s` on, is idle. -/
def StepIdles (s : State) : List HostOp → Prop
  | [] => False
  | op :: ops => (op = .step ∧ Idles s) ∨ StepIdles (s.apply op) ops

/-- The program idles: its run reaches a step "whose fetched word is `1nnn` with `nnn = pc0`". Nothing says that the host
stops there. -/
def RunIdles (s : State) (program : List Byte) (ops : List HostOp) : Prop := StepIdles (s.loadROM program).2 ops

end Sys2Proof.Machine
end

