-- ==== Sys2Proof/Certificates/Slice0/Obligations.lean ====
section
/-!
DEFINITION. The statements about the machine, for the provers. Each docstring names the rule of spec/ it formalises; where a
clause rests on a decision the spec marks as its own (Dn), on general knowledge (Gn), on a rule the spec marks derived, or on
an entry of the model's log, it says so.
-/

open Sys2Proof Sys2Proof.Machine

/-! ### Encoding and decoding -/

/-- Decoding the encoding of a well-formed instruction gives it back, every operand at every value (30_encoding.md sections
1 to 3). -/
def Obligations.DecodeOfEncodeIsIdentity : Prop :=
  ∀ i : Instr, i.wellFormed = true → decode (encode i) = .ok i

/-- A word that decodes to an instruction decodes to a well-formed one, and is its encoding but for the low nibble of 5xyN
and 9xyN, which is not read (the spec's decision D14): there the encoding has it 0. -/
def Obligations.EncodeOfDecodeGivesTheWord : Prop :=
  ∀ (op : Word) (i : Instr), decode op = .ok i →
    i.wellFormed = true ∧
    (op.toNat / 4096 = 5 ∨ op.toNat / 4096 = 9 → (encode i).toNat = op.toNat - op.toNat % 16) ∧
    (op.toNat / 4096 ≠ 5 → op.toNat / 4096 ≠ 9 → encode i = op)

/-- Words of every family, taken from the spec's examples and vectors, decode to the instructions they stand for (which
instructions 0123, 512F and E0A1 are rests on general knowledge G2 and G4 and the spec's decisions D13 and D14, log entry
10). -/
def Obligations.SpecWordsDecode : Prop :=
  decode 0x00E0#16 = .ok .cls ∧ decode 0x00EE#16 = .ok .ret ∧ decode 0x0123#16 = .ok (.sys 0x123#12) ∧
  decode 0x2204#16 = .ok (.call 0x204#12) ∧ decode 0x3107#16 = .ok (.seImm 1 0x07#8) ∧
  decode 0x512F#16 = .ok (.seReg 1 2) ∧ decode 0x6A42#16 = .ok (.ldImm 10 0x42#8) ∧
  decode 0x8236#16 = .ok (.shr 2 3) ∧ decode 0x820E#16 = .ok (.shl 2 0) ∧ decode 0xA2F0#16 = .ok (.ldI 0x2F0#12) ∧
  decode 0xD125#16 = .ok (.drw 1 2 5#4) ∧ decode 0xE0A1#16 = .ok (.sknp 0) ∧ decode 0xF30A#16 = .ok (.ldVxK 3) ∧
  decode 0xF333#16 = .ok (.ldB 3) ∧ decode 0xF165#16 = .ok (.loadRegs 1) ∧ decode 0x800F#16 = .error (.group8 0xF#4)

/-- R86: the unmapped words are exactly the listed ones (SYS nnn among them), and a step that fetches one advances `pc` by 2
and ticks the timers, and changes nothing else. -/
def Obligations.IgnoredWordsOnlyAdvance : Prop :=
  (∀ op : Word, IsIgnoredWord op ↔ (∃ u, decode op = .error u) ∨ ∃ nnn, decode op = .ok (.sys nnn)) ∧
  ∀ (s : State) (op : Word), Fetches s op → IsIgnoredWord op →
    ∃ t, step s = .next t ∧ t.pc = s.pc + 2 ∧ TickedFrom s.dt t.dt ∧ TickedFrom s.st t.st ∧
      Frame { delay := true, sound := true } s t

/-! ### The step -/

/-- When the word at `pc` decodes to an instruction, the step executes it at that state and then ticks both timers, unless
the instruction faulted: then the step leaves the faulted state as it is (30_encoding.md section 5; the missing tick is the
spec's decision D30). -/
def Obligations.StepRunsTheDecodedInstruction : Prop :=
  ∀ (s : State) (op : Word) (i : Instr), Fetches s op → decode op = .ok i →
    ∃ t u, exec i s = .next t ∧ step s = .next u ∧
      (t.fault.isSome = true → u = t) ∧
      (t.fault = none → u = { t with dt := u.dt, st := u.st } ∧ TickedFrom t.dt u.dt ∧ TickedFrom t.st u.st)

/-- Every step of every state answers a next state: no word, no operand and no address stops the machine (R93, R244 and the
spec's decisions D3, D4). -/
def Obligations.StepAlwaysAnswersNext : Prop :=
  ∀ s : State, ∃ t, step s = .next t

/-- A faulted core's step changes nothing and reports the same record; `setKey` changes no more than the latch; only `reset`
and a successful `loadROM` clear FAULT (60_exceptions.md section 1; the spec's decision D4). -/
def Obligations.FaultedCoreIsSticky : Prop :=
  ∀ (s : State) (r : FaultRecord), s.fault = some r →
    step s = .next s ∧ stepResult s s = .faulted r ∧
    (s.wait = none → ∀ index pressed, (s.setKey index pressed).2 = { s with keys := (s.setKey index pressed).2.keys }) ∧
    s.resetOp.fault = none ∧
    (∀ bytes : List Byte, bytes.length ≤ 3584 → (s.loadROM bytes).2.fault = none) ∧
    (∀ bytes : List Byte, 3584 < bytes.length → (s.loadROM bytes).2 = s)

/-- A step held by WAIT fetches nothing and only ticks; a key release and a step keep the wait, a key press, `reset` and a
successful `loadROM` end it (60_exceptions.md section 3; the spec's decisions D22 and D30). -/
def Obligations.HeldStepOnlyTicks : Prop :=
  ∀ (s : State) (r : RegNo), s.fault = none → s.wait = some r →
    (∃ t, step s = .next t ∧ stepResult s t = .ok ∧ t.pc = s.pc ∧ TickedFrom s.dt t.dt ∧ TickedFrom s.st t.st ∧
      Frame { delay := true, sound := true } s t) ∧
    (∀ index, (s.setKey index false).2.wait = some r) ∧
    (∀ index, 0 ≤ index → index < 16 → (s.setKey index true).2.wait = none) ∧
    s.resetOp.wait = none ∧ ∀ bytes : List Byte, bytes.length ≤ 3584 → (s.loadROM bytes).2.wait = none

/-- A step with `pc0 + 1 ≥ 4096` takes FetchRange, whatever memory holds: the record has no word and the address
max(pc0, 4096), and nothing else changes (30_encoding.md section 5; the spec's decision D7). -/
def Obligations.FetchOutOfRangeFaults : Prop :=
  ∀ s : State, s.fault = none → s.wait = none → 0x0FFF ≤ s.pc.toNat →
    step s = .next { s with
      fault := some { code := .fetchRange, pc := s.pc, op := none, addr := some (BitVec.ofNat 17 (max s.pc.toNat 4096)) } }

/-- R68: a fetch is big-endian, the byte at the lower address in bits 15 to 8, and a program loaded by `loadROM` is fetched
so from 0x200. -/
def Obligations.FetchIsBigEndian : Prop :=
  (∀ s : State, s.pc.toNat + 1 < 4096 → ∃ op, s.fetch = .ok op ∧
    op.toNat = (s.readByte s.pc.toNat).toNat * 256 + (s.readByte (s.pc.toNat + 1)).toNat ∧
    (firstByte op) = s.readByte s.pc.toNat ∧ (secondByte op) = s.readByte (s.pc.toNat + 1)) ∧
  ∀ (s : State) (first second : Byte) (rest : List Byte), rest.length ≤ 3582 →
    ∃ op, (s.loadROM (first :: second :: rest)).2.fetch = .ok op ∧ op.toNat = first.toNat * 256 + second.toNat

/-- A step that takes a fault changes nothing but FAULT, whose `pc` is `pc0`: all or nothing (60_exceptions.md section 1; the
spec's decision D3). -/
def Obligations.FaultingStepChangesOnlyFault : Prop :=
  ∀ (s t : State) (r : FaultRecord), s.fault = none → step s = .next t → t.fault = some r →
    t = { s with fault := some r } ∧ r.pc = s.pc ∧ stepResult s t = .fault r

/-- A step that fetches a word takes exactly the fault the table of R242 gives its instruction, with the fetched word in the
record, and an ignored word takes none (60_exceptions.md section 1; the spec's decisions D5, D6, D7, D9). -/
def Obligations.FaultsHaveTheirCauses : Prop :=
  ∀ (s t : State) (op : Word), Fetches s op → step s = .next t →
    (∀ i, decode op = .ok i → t.fault = instrFault s op i) ∧ (∀ u, decode op = .error u → t.fault = none)

/-- Every step that does not fault ticks both timers once, each down by 1 if nonzero, after the instruction (60_exceptions.md
section 3): a timer written by Fx15 or Fx18 is ticked from the value written (45_timers_keys.md; that Fx15 writes DT and Fx18
ST is general knowledge G5, log entry 10; the tick of a held step is the spec's decision D30). -/
def Obligations.TimersTickOncePerStep : Prop :=
  ∀ s t : State, s.fault = none → step s = .next t → t.fault = none →
    (∀ x, Executes s (.ldDtVx x) → TickedFrom (s.readV x) t.dt) ∧
    (∀ x, Executes s (.ldStVx x) → TickedFrom (s.readV x) t.st) ∧
    ((∀ x, ¬ Executes s (.ldDtVx x)) → TickedFrom s.dt t.dt) ∧
    ((∀ x, ¬ Executes s (.ldStVx x)) → TickedFrom s.st t.st)

/-- A jump to itself repeats: the step leaves everything but the timers as it was (60_exceptions.md section 5; the idle idiom
is the spec's decision D34). -/
def Obligations.IdleLoopOnlyTicks : Prop :=
  ∀ s : State, Idles s →
    ∃ t, step s = .next t ∧ t.pc = s.pc ∧ TickedFrom s.dt t.dt ∧ TickedFrom s.st t.st ∧
      Frame { delay := true, sound := true } s t ∧ Idles t

/-! ### Who may write what -/

/-- A step changes a general register only by executing an instruction that the table of R22 (which the spec marks derived)
lists for it (8xy0 and Fx07 among them by general knowledge G3 and G5, log entry 10). -/
def Obligations.RegistersChangeOnlyByTheirWriters : Prop :=
  ∀ (s t : State) (r : RegNo), step s = .next t → t.readV r ≠ s.readV r → ∃ i, Executes s i ∧ writesReg i r

/-- A step changes `I` only by Annn, Fx1E or Fx29, and the stack or SP only by 2nnn or 00EE (10_state.md sections 3
and 4). -/
def Obligations.IndexAndStackHaveTheirWriters : Prop :=
  ∀ s t : State, step s = .next t →
    (t.i ≠ s.i → (∃ nnn, Executes s (.ldI nnn)) ∨ (∃ x, Executes s (.addI x)) ∨ ∃ x, Executes s (.ldF x)) ∧
    (t.sp ≠ s.sp ∨ t.stack ≠ s.stack → (∃ nnn, Executes s (.call nnn)) ∨ Executes s .ret)

/-- A step changes a byte of memory only by Fx33, within I to I + 2, or by Fx55, within I to I + x, and never at an address
of 4096 or more (20_memory.md sections 3 and 6). -/
def Obligations.MemoryChangesOnlyByStores : Prop :=
  ∀ (s t : State) (a : Nat), step s = .next t → t.readByte a ≠ s.readByte a →
    a < 4096 ∧ s.i.toNat ≤ a ∧
      ((∃ x, Executes s (.ldB x) ∧ a ≤ s.i.toNat + 2) ∨ ∃ x, Executes s (.storeRegs x) ∧ a ≤ s.i.toNat + x.val)

/-- Among instructions only 00E0 and Dxyn change a cell of the framebuffer, only Fx0A in mode `wait` sets WAIT, and no step
changes the input latch or the parameters (10_state.md sections 6 to 8; orientation and WAIT are the spec's decisions D18
and D22). -/
def Obligations.ScreenLatchAndWaitHaveTheirWriters : Prop :=
  ∀ s t : State, step s = .next t →
    (∀ c r, t.pixel c r ≠ s.pixel c r → Executes s .cls ∨ ∃ x y n, Executes s (.drw x y n)) ∧
    (t.wait ≠ s.wait → s.keyWaitMode = .wait ∧ ∃ x, Executes s (.ldVxK x) ∧ t.wait = some x) ∧
    t.keys = s.keys ∧ t.font = s.font ∧ t.keyWaitMode = s.keyWaitMode

/-! ### The invariant -/

/-- Every step keeps the invariant: memory canonical and below 4096, `pc` at most 0x10FE (so its writes never wrap), stack
slots at most 0x0FFE, no wait in mode `noop` or while faulted, and a FAULT record that fits the state it was taken in. -/
def Obligations.StepKeepsInvariant : Prop :=
  ∀ s t : State, Inv s → step s = .next t → Inv t

/-- Construction meets the invariant whatever the parameters, and so does the model's reset state. -/
def Obligations.ConstructionMeetsInvariant : Prop :=
  (∀ font mode, Inv (State.construct font mode)) ∧ Inv State.reset

/-- The host operations other than `step` keep the invariant (60_exceptions.md section 5). -/
def Obligations.HostOperationsKeepInvariant : Prop :=
  ∀ s : State, Inv s →
    Inv s.resetOp ∧ (∀ bytes, Inv (s.loadROM bytes).2) ∧ ∀ index pressed, Inv (s.setKey index pressed).2

/-- Every state that any sequence of host operations reaches from construction, with any parameters, any programs and any
keys, meets the invariant (60_exceptions.md sections 5; 10_state.md section 2). -/
def Obligations.ReachableStatesMeetInvariant : Prop :=
  ∀ (font : Font) (mode : KeyWaitMode) (ops : List HostOp), Inv ((State.construct font mode).applyAll ops)

/-- Two canonical memories under one FONT that answer every read alike are equal data (20_memory.md section 1). -/
def Obligations.EqualReadsAreEqualMemories : Prop :=
  ∀ (font : Font) (m m' : Memory), Memory.wf font m → Memory.wf font m' →
    (∀ a, a < 4096 → Memory.read font m a = Memory.read font m' a) → m = m'

/-! ### Control transfer -/

/-- 0nnn SYS nnn advances `pc` by 2 and does nothing else (42_control.md section 2; the spec's decision D13, general
knowledge G2). -/
def Obligations.SysOnlyAdvances : Prop :=
  ∀ (nnn : BitVec 12) (s : State),
    (nnn ≠ 0x0E0#12 → nnn ≠ 0x0EE#12 → decode (wordNNN 0x0 nnn) = .ok (.sys nnn)) ∧
    ∃ t, exec (.sys nnn) s = .next t ∧ t.pc.toNat = (s.pc.toNat + 2) % 65536 ∧ Frame {} s t

/-- R162: 1nnn sets `pc` to nnn and changes nothing else; a jump to its own address stays there. -/
def Obligations.JumpSetsPc : Prop :=
  ∀ (nnn : BitVec 12) (s : State),
    decode (wordNNN 0x1 nnn) = .ok (.jp nnn) ∧
    ∃ t, exec (.jp nnn) s = .next t ∧ t.pc.toNat = nnn.toNat ∧ (nnn.toNat = s.pc.toNat → t.pc = s.pc) ∧ Frame {} s t

/-- 2nnn pushes its own address `pc0` into slot SP, raises SP by 1 and jumps to nnn (42_control.md R164); with SP = 16 it takes
StackOverflow and changes nothing else (the fault is the spec's decisions D3, D5 and D9). -/
def Obligations.CallPushesItsOwnAddress : Prop :=
  ∀ (nnn : BitVec 12) (s : State),
    decode (wordNNN 0x2 nnn) = .ok (.call nnn) ∧
    (∀ h : s.sp.val < 16, ∃ t, exec (.call nnn) s = .next t ∧ t.pc.toNat = nnn.toNat ∧ t.sp.val = s.sp.val + 1 ∧
      t.stack[s.sp.val] = s.pc ∧ (∀ k : Fin 16, k.val ≠ s.sp.val → t.stack[k] = s.stack[k]) ∧
      Frame { stack := true } s t) ∧
    (s.sp.val = 16 → exec (.call nnn) s = .next { s with
      fault := some { code := .stackOverflow, pc := s.pc, op := some (wordNNN 0x2 nnn), addr := none } })

/-- 00EE lowers SP by 1 and goes to the address it pops plus 2, the slot keeping its value, and a return right after a call
lands on the instruction after it (42_control.md R166); with SP = 0 it takes StackUnderflow and changes nothing else (the
fault is the spec's decisions D3, D5 and D9). -/
def Obligations.ReturnGoesPastTheCall : Prop :=
  decode 0x00EE#16 = .ok .ret ∧
  ∀ s : State,
    (∀ h : 0 < s.sp.val, ∃ t, exec .ret s = .next t ∧ t.pc = s.stack[s.sp.val - 1] + 2 ∧ t.sp.val = s.sp.val - 1 ∧
      t.stack = s.stack ∧ Frame { stack := true } s t) ∧
    (s.sp.val = 0 → exec .ret s = .next { s with
      fault := some { code := .stackUnderflow, pc := s.pc, op := some 0x00EE#16, addr := none } }) ∧
    (∀ nnn t u, s.sp.val < 16 → exec (.call nnn) s = .next t → exec .ret t = .next u → u.pc = s.pc + 2 ∧ u.sp = s.sp)

/-- Bnnn sets `pc` to nnn + V0, not masked to 12 bits, and changes nothing else (42_control.md section 2; the spec's decision
D11). -/
def Obligations.JumpV0AddsWithoutMask : Prop :=
  ∀ (nnn : BitVec 12) (s : State),
    decode (wordNNN 0xB nnn) = .ok (.jpV0 nnn) ∧
    ∃ t, exec (.jpV0 nnn) s = .next t ∧ t.pc.toNat = nnn.toNat + (s.readV 0).toNat ∧ t.pc.toNat ≤ 0x10FE ∧ Frame {} s t

/-! ### Skips -/

/-- 3xkk skips when Vx = kk and 4xkk when it is not; a skip writes only `pc` (41_skips.md sections 1 and 2; the conditions
are general knowledge G4). -/
def Obligations.ImmediateSkips : Prop :=
  ∀ (x : RegNo) (kk : Byte) (s : State),
    decode (wordXKK 0x3 x kk) = .ok (.seImm x kk) ∧ decode (wordXKK 0x4 x kk) = .ok (.sneImm x kk) ∧
    (∃ t, exec (.seImm x kk) s = .next t ∧ Frame {} s t ∧
      ((s.readV x).toNat = kk.toNat → t.pc = s.pc + 4) ∧ ((s.readV x).toNat ≠ kk.toNat → t.pc = s.pc + 2)) ∧
    ∃ t, exec (.sneImm x kk) s = .next t ∧ Frame {} s t ∧
      ((s.readV x).toNat ≠ kk.toNat → t.pc = s.pc + 4) ∧ ((s.readV x).toNat = kk.toNat → t.pc = s.pc + 2)

/-- 5xyN skips when Vx = Vy and 9xyN when not, for every N; a skip writes only `pc` (41_skips.md sections 1 and 2; the spec's
decision D14, general knowledge G4). -/
def Obligations.RegisterSkips : Prop :=
  ∀ (x y : RegNo) (s : State),
    (∀ n, decode (wordXYN 0x5 x y n) = .ok (.seReg x y)) ∧ (∀ n, decode (wordXYN 0x9 x y n) = .ok (.sneReg x y)) ∧
    (∃ t, exec (.seReg x y) s = .next t ∧ Frame {} s t ∧
      ((s.readV x).toNat = (s.readV y).toNat → t.pc = s.pc + 4) ∧
      ((s.readV x).toNat ≠ (s.readV y).toNat → t.pc = s.pc + 2)) ∧
    ∃ t, exec (.sneReg x y) s = .next t ∧ Frame {} s t ∧
      ((s.readV x).toNat ≠ (s.readV y).toNat → t.pc = s.pc + 4) ∧
      ((s.readV x).toNat = (s.readV y).toNat → t.pc = s.pc + 2)

/-- Ex9E skips when the key whose index is in Vx is pressed and ExA1 when it is not; an index of 16 or more reads as not
pressed (41_skips.md section 2; the spec's decision D21, general knowledge G4). -/
def Obligations.KeySkips : Prop :=
  ∀ (x : RegNo) (s : State),
    decode (wordXKK 0xE x 0x9E#8) = .ok (.skp x) ∧ decode (wordXKK 0xE x 0xA1#8) = .ok (.sknp x) ∧
    ∃ t u, exec (.skp x) s = .next t ∧ exec (.sknp x) s = .next u ∧ Frame {} s t ∧ Frame {} s u ∧
      (∀ k : Fin 16, (s.readV x).toNat = k.val →
        (s.keys[k] = true → t.pc = s.pc + 4 ∧ u.pc = s.pc + 2) ∧ (s.keys[k] = false → t.pc = s.pc + 2 ∧ u.pc = s.pc + 4)) ∧
      (16 ≤ (s.readV x).toNat → t.pc = s.pc + 2 ∧ u.pc = s.pc + 4)

/-! ### Loads, arithmetic, logic, shifts, random -/

/-- R102: 6xkk writes kk to Vx and nothing else. -/
def Obligations.LoadImmediate : Prop :=
  ∀ (x : RegNo) (kk : Byte) (s : State),
    decode (wordXKK 0x6 x kk) = .ok (.ldImm x kk) ∧
    ∃ t, exec (.ldImm x kk) s = .next t ∧ t.readV x = kk ∧ t.pc = s.pc + 2 ∧ Frame { regs := [x] } s t

/-- R104: 7xkk adds kk to Vx modulo 256 and writes no flag. -/
def Obligations.AddImmediateWithoutFlag : Prop :=
  ∀ (x : RegNo) (kk : Byte) (s : State),
    decode (wordXKK 0x7 x kk) = .ok (.addImm x kk) ∧
    ∃ t, exec (.addImm x kk) s = .next t ∧ (t.readV x).toNat = ((s.readV x).toNat + kk.toNat) % 256 ∧ t.pc = s.pc + 2 ∧
      Frame { regs := [x] } s t

/-- 8xy0 copies Vy to Vx (40_load_alu.md section 3; general knowledge G3). -/
def Obligations.CopyRegister : Prop :=
  ∀ (x y : RegNo) (s : State),
    decode (wordXYN 0x8 x y 0x0#4) = .ok (.ldReg x y) ∧
    ∃ t, exec (.ldReg x y) s = .next t ∧ t.readV x = s.readV y ∧ t.pc = s.pc + 2 ∧ Frame { regs := [x] } s t

/-- R107, R108, R109: OR, AND and XOR of Vx and Vy bit by bit into Vx, VF not reset. -/
def Obligations.BitwiseOperations : Prop :=
  ∀ (x y : RegNo) (s : State),
    decode (wordXYN 0x8 x y 0x1#4) = .ok (.orReg x y) ∧ decode (wordXYN 0x8 x y 0x2#4) = .ok (.andReg x y) ∧
    decode (wordXYN 0x8 x y 0x3#4) = .ok (.xorReg x y) ∧
    ∃ o a e, exec (.orReg x y) s = .next o ∧ exec (.andReg x y) s = .next a ∧ exec (.xorReg x y) s = .next e ∧
      o.pc = s.pc + 2 ∧ a.pc = s.pc + 2 ∧ e.pc = s.pc + 2 ∧
      Frame { regs := [x] } s o ∧ Frame { regs := [x] } s a ∧ Frame { regs := [x] } s e ∧
      ∀ b : Nat, b < 8 →
        (o.readV x).getLsbD b = ((s.readV x).getLsbD b || (s.readV y).getLsbD b) ∧
        (a.readV x).getLsbD b = ((s.readV x).getLsbD b && (s.readV y).getLsbD b) ∧
        (e.readV x).getLsbD b = ((s.readV x).getLsbD b ^^ (s.readV y).getLsbD b)

/-- 8xy4 writes the sum modulo 256 to Vx and VF = 1 if the untruncated sum exceeds 255, else 0 (40_load_alu.md R110); that
the flag wins when x = 0xF is the spec's decision D16. -/
def Obligations.AddRegistersSetsCarry : Prop :=
  ∀ (x y : RegNo) (s : State),
    decode (wordXYN 0x8 x y 0x4#4) = .ok (.addReg x y) ∧
    ∃ t, exec (.addReg x y) s = .next t ∧
      (x ≠ 0xF → (t.readV x).toNat = ((s.readV x).toNat + (s.readV y).toNat) % 256) ∧
      (t.readV 0xF).toNat = (if (s.readV x).toNat + (s.readV y).toNat > 255 then 1 else 0) ∧
      t.pc = s.pc + 2 ∧ Frame { regs := [x, 0xF] } s t

/-- 8xy5 writes Vx - Vy modulo 256 to Vx and VF = 1 if Vx ≥ Vy before the subtraction, else 0 (40_load_alu.md R111); that
the flag wins when x = 0xF is the spec's decision D16. -/
def Obligations.SubtractSetsNotBorrow : Prop :=
  ∀ (x y : RegNo) (s : State),
    decode (wordXYN 0x8 x y 0x5#4) = .ok (.subReg x y) ∧
    ∃ t, exec (.subReg x y) s = .next t ∧
      (x ≠ 0xF → (t.readV x).toNat = ((s.readV x).toNat + 256 - (s.readV y).toNat) % 256) ∧
      (t.readV 0xF).toNat = (if (s.readV x).toNat ≥ (s.readV y).toNat then 1 else 0) ∧
      t.pc = s.pc + 2 ∧ Frame { regs := [x, 0xF] } s t

/-- 8xy7 writes Vy - Vx modulo 256 to Vx and VF = 1 if Vy ≥ Vx before the subtraction, else 0 (40_load_alu.md R113); that
the flag wins when x = 0xF is the spec's decision D16. -/
def Obligations.ReverseSubtractSetsNotBorrow : Prop :=
  ∀ (x y : RegNo) (s : State),
    decode (wordXYN 0x8 x y 0x7#4) = .ok (.subnReg x y) ∧
    ∃ t, exec (.subnReg x y) s = .next t ∧
      (x ≠ 0xF → (t.readV x).toNat = ((s.readV y).toNat + 256 - (s.readV x).toNat) % 256) ∧
      (t.readV 0xF).toNat = (if (s.readV y).toNat ≥ (s.readV x).toNat then 1 else 0) ∧
      t.pc = s.pc + 2 ∧ Frame { regs := [x, 0xF] } s t

/-- 8xy6 halves Vx, whatever y is, and VF = the old bit 0 (40_load_alu.md R112); that the flag wins when x = 0xF is the
spec's decision D16. -/
def Obligations.ShiftRightSetsBitOut : Prop :=
  ∀ (x y : RegNo) (s : State),
    decode (wordXYN 0x8 x y 0x6#4) = .ok (.shr x y) ∧
    ∃ t, exec (.shr x y) s = .next t ∧
      (x ≠ 0xF → (t.readV x).toNat = (s.readV x).toNat / 2) ∧
      (t.readV 0xF).toNat = (s.readV x).toNat % 2 ∧
      t.pc = s.pc + 2 ∧ Frame { regs := [x, 0xF] } s t

/-- 8xyE doubles Vx modulo 256, whatever y is, and VF = the old bit 7 (40_load_alu.md R114); that the flag wins when x = 0xF
is the spec's decision D16. -/
def Obligations.ShiftLeftSetsBitOut : Prop :=
  ∀ (x y : RegNo) (s : State),
    decode (wordXYN 0x8 x y 0xE#4) = .ok (.shl x y) ∧
    ∃ t, exec (.shl x y) s = .next t ∧
      (x ≠ 0xF → (t.readV x).toNat = (s.readV x).toNat * 2 % 256) ∧
      (t.readV 0xF).toNat = (s.readV x).toNat / 128 ∧
      t.pc = s.pc + 2 ∧ Frame { regs := [x, 0xF] } s t

/-- R116: Annn sets `I` to nnn and nothing else. -/
def Obligations.LoadIndex : Prop :=
  ∀ (nnn : BitVec 12) (s : State),
    decode (wordNNN 0xA nnn) = .ok (.ldI nnn) ∧
    ∃ t, exec (.ldI nnn) s = .next t ∧ t.i.toNat = nnn.toNat ∧ t.pc = s.pc + 2 ∧ Frame { index := true } s t

/-- Cxkk writes one draw AND kk to Vx, whatever the draw (40_load_alu.md section 5; the spec's decision D23). The draw is the
model's free value number `draws`, and the count goes up by 1 (log entry 3); nothing is known of the byte. -/
def Obligations.RandomIsMasked : Prop :=
  ∀ (x : RegNo) (kk : Byte) (s : State),
    decode (wordXKK 0xC x kk) = .ok (.rnd x kk) ∧
    ∃ t, exec (.rnd x kk) s = .next t ∧ t.readV x = Config.rand s.draws &&& kk ∧
      (∀ b, kk.getLsbD b = false → (t.readV x).getLsbD b = false) ∧ t.draws = s.draws + 1 ∧ t.pc = s.pc + 2 ∧
      Frame { regs := [x], draws := true } s t

/-! ### Framebuffer and font -/

/-- R180: 00E0 sets every cell to 0 and writes nothing else. -/
def Obligations.ClearScreen : Prop :=
  decode 0x00E0#16 = .ok .cls ∧
  ∀ s : State, ∃ t, exec .cls s = .next t ∧ (∀ c r, t.pixel c r = false) ∧ t.pc = s.pc + 2 ∧ Frame { screen := true } s t

/-- Dxyn with every row in memory toggles exactly the cells a set sprite bit lands on, wrapping each pixel, and sets VF to 1
if one of them was 1, else to 0; `I` and the coordinates are read first (43_display.md; bit order and operand time are the
spec's decision D17, general knowledge G6). -/
def Obligations.DrawTogglesCoveredCells : Prop :=
  ∀ (x y : RegNo) (n : BitVec 4) (s : State),
    decode (wordXYN 0xD x y n) = .ok (.drw x y n) ∧
    (n.toNat = 0 ∨ s.i.toNat + n.toNat ≤ 4096 → ∃ t, exec (.drw x y n) s = .next t ∧
      (∀ c r, SpriteCovers s x y n c r → t.pixel c r = !s.pixel c r) ∧
      (∀ c r, ¬ SpriteCovers s x y n c r → t.pixel c r = s.pixel c r) ∧
      ((∃ c r, SpriteCovers s x y n c r ∧ s.pixel c r = true) → t.readV 0xF = 1) ∧
      ((¬ ∃ c r, SpriteCovers s x y n c r ∧ s.pixel c r = true) → t.readV 0xF = 0) ∧
      t.pc = s.pc + 2 ∧ Frame { regs := [0xF], screen := true } s t)

/-- Dxyn of which a row lies at 4096 or above takes MemReadRange with the lowest such address and changes nothing else
(43_display.md, 20_memory.md section 3; the spec's decisions D3 and D7). -/
def Obligations.DrawOutOfRangeFaults : Prop :=
  ∀ (x y : RegNo) (n : BitVec 4) (s : State), 0 < n.toNat → 4096 < s.i.toNat + n.toNat →
    exec (.drw x y n) s = .next { s with fault := some (rangeFault .memReadRange s (wordXYN 0xD x y n)) }

/-- Drawing the same sprite twice at the same place restores every cell, and the second draw's VF is 1 exactly when the first
turned a cell on (43_display.md; 95_test_vectors.md L1-6). Which cells the sprite covers rests on the bit order of a sprite
byte and on when the operands are read (the spec's decision D17, general knowledge G6, log entry 10). The coordinates must not
be VF, which the first draw writes, and every row must be in memory; DrawTogglesCoveredCells speaks of the other forms. -/
def Obligations.DrawingTwiceRestores : Prop :=
  ∀ (x y : RegNo) (n : BitVec 4) (s t u : State), x ≠ 0xF → y ≠ 0xF → s.i.toNat + n.toNat ≤ 4096 →
    exec (.drw x y n) s = .next t → exec (.drw x y n) t = .next u →
    (∀ c r, u.pixel c r = s.pixel c r) ∧
    (u.readV 0xF = 1 ↔ ∃ c r, SpriteCovers s x y n c r ∧ s.pixel c r = false)

/-- Fx29 sets `I` to five times Vx, not masked to a digit, and writes nothing else (43_display.md; the spec's decision
D20). -/
def Obligations.FontAddress : Prop :=
  ∀ (x : RegNo) (s : State),
    decode (wordXKK 0xF x 0x29#8) = .ok (.ldF x) ∧
    ∃ t, exec (.ldF x) s = .next t ∧ t.i.toNat = (s.readV x).toNat * 5 ∧ t.pc = s.pc + 2 ∧ Frame { index := true } s t

/-! ### Index arithmetic and memory blocks -/

/-- Fx1E adds Vx to `I` modulo 2^16 and writes no flag (44_index_memory.md; the spec's decision D19). -/
def Obligations.AddToIndex : Prop :=
  ∀ (x : RegNo) (s : State),
    decode (wordXKK 0xF x 0x1E#8) = .ok (.addI x) ∧
    ∃ t, exec (.addI x) s = .next t ∧ t.i.toNat = (s.i.toNat + (s.readV x).toNat) % 65536 ∧ t.pc = s.pc + 2 ∧
      Frame { index := true } s t

/-- Fx33 stores the hundreds, tens and units of Vx at I, I + 1 and I + 2 (44_index_memory.md R202); when one of them does not
exist it takes MemWriteRange with the lowest such address, and no byte is written (the spec's decisions D3, D5 and D7). -/
def Obligations.StoreDecimalDigits : Prop :=
  ∀ (x : RegNo) (s : State),
    decode (wordXKK 0xF x 0x33#8) = .ok (.ldB x) ∧
    (s.i.toNat + 2 < 4096 → ∃ t, exec (.ldB x) s = .next t ∧
      (t.readByte s.i.toNat).toNat = (s.readV x).toNat / 100 ∧
      (t.readByte (s.i.toNat + 1)).toNat = (s.readV x).toNat / 10 % 10 ∧
      (t.readByte (s.i.toNat + 2)).toNat = (s.readV x).toNat % 10 ∧
      t.pc = s.pc + 2 ∧ Frame { memBase := s.memBase, memLen := 3 } s t) ∧
    (4096 ≤ s.i.toNat + 2 → exec (.ldB x) s = .next { s with fault := some (rangeFault .memWriteRange s (wordXKK 0xF x 0x33#8)) })

/-- Fx55 stores V0 to Vx at I to I + x and leaves `I` (44_index_memory.md R204); when one of the addresses does not exist it
takes MemWriteRange with the lowest such address, and no byte is written (the spec's decisions D3, D5 and D7). -/
def Obligations.StoreRegisters : Prop :=
  ∀ (x : RegNo) (s : State),
    decode (wordXKK 0xF x 0x55#8) = .ok (.storeRegs x) ∧
    (s.i.toNat + x.val < 4096 → ∃ t, exec (.storeRegs x) s = .next t ∧
      (∀ k : RegNo, k ≤ x → t.readByte (s.i.toNat + k.val) = s.readV k) ∧
      t.pc = s.pc + 2 ∧ Frame { memBase := s.memBase, memLen := x.val + 1 } s t) ∧
    (4096 ≤ s.i.toNat + x.val → exec (.storeRegs x) s = .next { s with fault := some (rangeFault .memWriteRange s (wordXKK 0xF x 0x55#8)) })

/-- Fx65 loads V0 to Vx from I to I + x and leaves `I` and the registers above x (44_index_memory.md R206); when one of the
addresses does not exist it takes MemReadRange with the lowest such address, and no register is written (the spec's decisions
D3, D5 and D7). -/
def Obligations.LoadRegisters : Prop :=
  ∀ (x : RegNo) (s : State),
    decode (wordXKK 0xF x 0x65#8) = .ok (.loadRegs x) ∧
    (s.i.toNat + x.val < 4096 → ∃ t, exec (.loadRegs x) s = .next t ∧
      (∀ k : RegNo, k ≤ x → t.readV k = s.readByte (s.i.toNat + k.val)) ∧
      t.pc = s.pc + 2 ∧ Frame { regs := (List.finRange 16).filter fun k => k ≤ x } s t) ∧
    (4096 ≤ s.i.toNat + x.val → exec (.loadRegs x) s = .next { s with fault := some (rangeFault .memReadRange s (wordXKK 0xF x 0x65#8)) })

/-! ### Timers and key wait -/

/-- Fx07 copies DT, before the step's tick, to Vx; Fx15 copies Vx to DT; Fx18 copies Vx to ST; none writes anything else
(45_timers_keys.md; the directions are general knowledge G5). -/
def Obligations.TimerMoves : Prop :=
  ∀ (x : RegNo) (s : State),
    decode (wordXKK 0xF x 0x07#8) = .ok (.ldVxDt x) ∧ decode (wordXKK 0xF x 0x15#8) = .ok (.ldDtVx x) ∧
    decode (wordXKK 0xF x 0x18#8) = .ok (.ldStVx x) ∧
    (∃ t, exec (.ldVxDt x) s = .next t ∧ t.readV x = s.dt ∧ t.pc = s.pc + 2 ∧ Frame { regs := [x] } s t) ∧
    (∃ t, exec (.ldDtVx x) s = .next t ∧ t.dt = s.readV x ∧ t.pc = s.pc + 2 ∧ Frame { delay := true } s t) ∧
    ∃ t, exec (.ldStVx x) s = .next t ∧ t.st = s.readV x ∧ t.pc = s.pc + 2 ∧ Frame { sound := true } s t

/-- Fx0A only advances in mode `noop`; in mode `wait` it also sets WAIT to x, and the next press of a key, whatever was
pressed before, writes its index to Vx and ends the wait (45_timers_keys.md; the spec's decision D22). -/
def Obligations.KeyWait : Prop :=
  ∀ (x : RegNo) (s : State),
    decode (wordXKK 0xF x 0x0A#8) = .ok (.ldVxK x) ∧
    (s.keyWaitMode = .noop → ∃ t, exec (.ldVxK x) s = .next t ∧ t.pc = s.pc + 2 ∧ Frame {} s t) ∧
    (s.keyWaitMode = .wait → ∃ t, exec (.ldVxK x) s = .next t ∧ t.pc = s.pc + 2 ∧ t.wait = some x ∧
      Frame { waitReg := true } s t ∧
      ∀ k : Fin 16, ((t.setKey k.val true).2.readV x).toNat = k.val ∧ (t.setKey k.val true).2.wait = none)

/-! ### Host operations -/

/-- `setKey` with an index 0 to 15 sets that flag alone, and a press while a register waits also writes the index to it and
clears WAIT; any other index is rejected with no change (60_exceptions.md section 5; the spec's decisions D22 and D26). -/
def Obligations.SetKeyLatchesAndReleases : Prop :=
  ∀ (s : State) (index : Int) (pressed : Bool),
    (∀ k : Fin 16, index = k.val →
      (s.setKey index pressed).1 = .ok ∧ (s.setKey index pressed).2.pc = s.pc ∧
      (s.setKey index pressed).2.keys[k] = pressed ∧
      (∀ j : Fin 16, j ≠ k → (s.setKey index pressed).2.keys[j] = s.keys[j]) ∧
      (s.wait = none ∨ pressed = false → Frame { keys := true } s (s.setKey index pressed).2) ∧
      (∀ r, s.wait = some r → pressed = true →
        ((s.setKey index pressed).2.readV r).toNat = k.val ∧ (s.setKey index pressed).2.wait = none ∧
        Frame { keys := true, waitReg := true, regs := [r] } s (s.setKey index pressed).2)) ∧
    (index < 0 ∨ 16 ≤ index → s.setKey index pressed = (.keyIndexInvalid, s))

/-- `loadROM` of at most 3584 bytes writes them from 0x200 on, leaves every other byte of memory and resets the rest; a
longer image is rejected with no change (70_reset_and_hazards.md section 3; the spec's decision D8). -/
def Obligations.LoadRomWritesAndResets : Prop :=
  ∀ (s : State) (bytes : List Byte),
    (bytes.length ≤ 3584 → ∃ t, s.loadROM bytes = (.ok, t) ∧
      (∀ k, ∀ h : k < bytes.length, t.readByte (0x200 + k) = bytes[k]) ∧
      (∀ a, ¬ (0x200 ≤ a ∧ a < 0x200 + bytes.length) → t.readByte a = s.readByte a) ∧
      t = { s.resetOp with mem := t.mem }) ∧
    (3584 < bytes.length → s.loadROM bytes = (.romTooLarge, s))

/-- `reset` gives every piece of state of the reset list its value, keeps memory, the stack slots and the parameters, and is
idempotent (70_reset_and_hazards.md section 2; FAULT and WAIT are the spec's decision D27, the slots D24, and R282 is marked
derived; the draw counter is the model's, log entry 3). -/
def Obligations.ResetGivesTheResetState : Prop :=
  ∀ s : State,
    (∀ r, s.resetOp.readV r = 0) ∧ s.resetOp.pc.toNat = 0x200 ∧ s.resetOp.i = 0 ∧ s.resetOp.sp.val = 0 ∧
    s.resetOp.dt = 0 ∧ s.resetOp.st = 0 ∧ (∀ k, s.resetOp.key k = false) ∧ (∀ c r, s.resetOp.pixel c r = false) ∧
    s.resetOp.fault = none ∧ s.resetOp.wait = none ∧ (∀ a, s.resetOp.readByte a = s.readByte a) ∧
    s.resetOp.stack = s.stack ∧ s.resetOp.font = s.font ∧ s.resetOp.keyWaitMode = s.keyWaitMode ∧
    s.resetOp.draws = s.draws ∧ s.resetOp.resetOp = s.resetOp

/-- R24, R32, R41 and R49: after construction with any parameters, and after `reset` of any state, every general register,
`I`, both timers and every framebuffer cell are 0. -/
def Obligations.RegistersTimersAndScreenStartAtZero : Prop :=
  (∀ font mode, (∀ r, (State.construct font mode).readV r = 0) ∧ (State.construct font mode).i = 0 ∧
    (State.construct font mode).dt = 0 ∧ (State.construct font mode).st = 0 ∧
    ∀ c r, (State.construct font mode).pixel c r = false) ∧
  ∀ s : State, (∀ r, s.resetOp.readV r = 0) ∧ s.resetOp.i = 0 ∧ s.resetOp.dt = 0 ∧ s.resetOp.st = 0 ∧
    ∀ c r, s.resetOp.pixel c r = false

/-- After construction memory holds FONT at 0x000 to 0x04F and 0 elsewhere, `pc` is 0x200, SP and the slots are 0, no key is
pressed, FAULT and WAIT are none; no program loaded, the first step fetches 0x0000 and only advances (10_state.md section 10,
70_reset_and_hazards.md section 1; the spec's decisions D24, D25, D27). FONT is whatever the parameter is. -/
def Obligations.ConstructedStateRunsZeroedMemory : Prop :=
  ∀ (font : Font) (mode : KeyWaitMode),
    (∀ k : Fin 80, (State.construct font mode).readByte k.val = font[k]) ∧
    (∀ a, 80 ≤ a → (State.construct font mode).readByte a = 0) ∧
    (State.construct font mode).pc.toNat = 0x200 ∧ (State.construct font mode).sp.val = 0 ∧
    (∀ k : Fin 16, (State.construct font mode).stack[k] = 0) ∧ (∀ k, (State.construct font mode).key k = false) ∧
    (State.construct font mode).fault = none ∧ (State.construct font mode).wait = none ∧
    ∃ t, step (State.construct font mode) = .next t ∧ t.pc.toNat = 0x202 ∧ Frame {} (State.construct font mode) t

/-- `getScreen` is 2048 cells, FB[c][r] at r * 64 + c (60_exceptions.md section 5; the spec's decision D18). -/
def Obligations.GetScreenIsRowMajor : Prop :=
  ∀ s : State, s.getScreen.length = 2048 ∧
    ∀ (c : Fin 64) (r : Fin 32), s.getScreen[r.val * 64 + c.val]? = some (s.pixel c r)

/-! ### Runs of a program -/

/-- A run of a program, with any keys between its steps and whatever the machine held before the load, has faulted exactly
when the FAULT register is set at its end; it then stands at the step that faulted, whose record FAULT still holds, and every
further step answers `Faulted` with that record and changes nothing (60_exceptions.md sections 1 and 5; the spec's decisions
D4 and D34). -/
def Obligations.FaultedRunsEndFaulted : Prop :=
  ∀ (s : State) (program : List Byte) (ops : List HostOp) (n : Nat), ProgramRun s program ops n →
    (RunFaults s program ops ↔ (runTo s program ops).fault.isSome = true) ∧
    (∀ r, (runTo s program ops).fault = some r →
      r.pc = (runTo s program ops).pc ∧ step (runTo s program ops) = .next (runTo s program ops) ∧
        stepResult (runTo s program ops) (runTo s program ops) = .faulted r) ∧
    (SafeRun s program ops → ∀ t ∈ (s.loadROM program).2.states ops, t.fault = none)
end

