-- ==== Sys2Proof/Laws/Decode.lean ====
section
/-!
SUPPORT. The fields of a word (30_encoding.md R82), of the three word shapes of the encoder, and when two words are one.
-/

namespace Sys2Proof

theorem fieldG_toNat (op : Word) : (fieldG op).toNat = op.toNat / 4096 := by
  simp only [fieldG, BitVec.extractLsb'_toNat, Nat.shiftRight_eq_div_pow]
  omega

theorem fieldX_val (op : Word) : (fieldX op).val = op.toNat / 256 % 16 := by
  show (op.extractLsb' 8 4).toNat = _
  simp only [BitVec.extractLsb'_toNat, Nat.shiftRight_eq_div_pow]

theorem fieldY_val (op : Word) : (fieldY op).val = op.toNat / 16 % 16 := by
  show (op.extractLsb' 4 4).toNat = _
  simp only [BitVec.extractLsb'_toNat, Nat.shiftRight_eq_div_pow]

theorem fieldN_toNat (op : Word) : (fieldN op).toNat = op.toNat % 16 := by
  simp only [fieldN, BitVec.extractLsb'_toNat, Nat.shiftRight_eq_div_pow]
  omega

theorem fieldKK_toNat (op : Word) : (fieldKK op).toNat = op.toNat % 256 := by
  simp only [fieldKK, BitVec.extractLsb'_toNat, Nat.shiftRight_eq_div_pow]
  omega

theorem fieldNNN_toNat (op : Word) : (fieldNNN op).toNat = op.toNat % 4096 := by
  simp only [fieldNNN, BitVec.extractLsb'_toNat, Nat.shiftRight_eq_div_pow]
  omega

theorem regField_toNat (r : RegNo) : (regField r).toNat = r.val := by
  simp only [regField, BitVec.toNat_ofNat]
  omega

/-- A concatenation as a number. -/
theorem toNat_append {n m : Nat} (a : BitVec n) (b : BitVec m) : (a ++ b).toNat = a.toNat * 2 ^ m + b.toNat := by
  rw [BitVec.toNat_append, Nat.shiftLeft_eq, Nat.mul_comm, ← Nat.two_pow_add_eq_or_of_lt b.isLt]

theorem encodeNNN_toNat (g : BitVec 4) (nnn : BitVec 12) : (encodeNNN g nnn).toNat = g.toNat * 4096 + nnn.toNat :=
  toNat_append g nnn

theorem encodeXKK_toNat (g : BitVec 4) (x : RegNo) (kk : Byte) :
    (encodeXKK g x kk).toNat = g.toNat * 4096 + x.val * 256 + kk.toNat := by
  refine (toNat_append (g ++ regField x : Byte) kk).trans ?_
  rw [toNat_append g (regField x), regField_toNat]
  omega

theorem encodeXYN_toNat (g : BitVec 4) (x y : RegNo) (n : BitVec 4) :
    (encodeXYN g x y n).toNat = g.toNat * 4096 + x.val * 256 + y.val * 16 + n.toNat := by
  refine (toNat_append (g ++ regField x : Byte) (regField y ++ n : Byte)).trans ?_
  rw [toNat_append g (regField x), toNat_append (regField y) n, regField_toNat, regField_toNat]
  omega

/-! ### The fields of `g nnn` -/

@[simp] theorem fieldG_encodeNNN (g : BitVec 4) (nnn : BitVec 12) : fieldG (encodeNNN g nnn) = g := by
  apply BitVec.eq_of_toNat_eq
  rw [fieldG_toNat, encodeNNN_toNat]
  omega

@[simp] theorem fieldNNN_encodeNNN (g : BitVec 4) (nnn : BitVec 12) : fieldNNN (encodeNNN g nnn) = nnn := by
  apply BitVec.eq_of_toNat_eq
  rw [fieldNNN_toNat, encodeNNN_toNat]
  omega

/-! ### The fields of `g x kk` -/

@[simp] theorem fieldG_encodeXKK (g : BitVec 4) (x : RegNo) (kk : Byte) : fieldG (encodeXKK g x kk) = g := by
  apply BitVec.eq_of_toNat_eq
  rw [fieldG_toNat, encodeXKK_toNat]
  omega

@[simp] theorem fieldX_encodeXKK (g : BitVec 4) (x : RegNo) (kk : Byte) : fieldX (encodeXKK g x kk) = x := by
  apply Fin.ext
  rw [fieldX_val, encodeXKK_toNat]
  omega

@[simp] theorem fieldKK_encodeXKK (g : BitVec 4) (x : RegNo) (kk : Byte) : fieldKK (encodeXKK g x kk) = kk := by
  apply BitVec.eq_of_toNat_eq
  rw [fieldKK_toNat, encodeXKK_toNat]
  omega

/-! ### The fields of `g x y n` -/

@[simp] theorem fieldG_encodeXYN (g : BitVec 4) (x y : RegNo) (n : BitVec 4) : fieldG (encodeXYN g x y n) = g := by
  apply BitVec.eq_of_toNat_eq
  rw [fieldG_toNat, encodeXYN_toNat]
  omega

@[simp] theorem fieldX_encodeXYN (g : BitVec 4) (x y : RegNo) (n : BitVec 4) : fieldX (encodeXYN g x y n) = x := by
  apply Fin.ext
  rw [fieldX_val, encodeXYN_toNat]
  omega

@[simp] theorem fieldY_encodeXYN (g : BitVec 4) (x y : RegNo) (n : BitVec 4) : fieldY (encodeXYN g x y n) = y := by
  apply Fin.ext
  rw [fieldY_val, encodeXYN_toNat]
  omega

@[simp] theorem fieldN_encodeXYN (g : BitVec 4) (x y : RegNo) (n : BitVec 4) : fieldN (encodeXYN g x y n) = n := by
  apply BitVec.eq_of_toNat_eq
  rw [fieldN_toNat, encodeXYN_toNat]
  omega

/-! ### The decoder by group (30_encoding.md R88) -/

/-- The decoder as a table over the sixteen groups. -/
theorem decode_groups (op : Word) :
    (fieldG op = 0x0#4 ∧ decode op = .ok (decodeGroup0 op)) ∨
    (fieldG op = 0x1#4 ∧ decode op = .ok (.jp (fieldNNN op))) ∨
    (fieldG op = 0x2#4 ∧ decode op = .ok (.call (fieldNNN op))) ∨
    (fieldG op = 0x3#4 ∧ decode op = .ok (.seImm (fieldX op) (fieldKK op))) ∨
    (fieldG op = 0x4#4 ∧ decode op = .ok (.sneImm (fieldX op) (fieldKK op))) ∨
    (fieldG op = 0x5#4 ∧ decode op = .ok (.seReg (fieldX op) (fieldY op))) ∨
    (fieldG op = 0x6#4 ∧ decode op = .ok (.ldImm (fieldX op) (fieldKK op))) ∨
    (fieldG op = 0x7#4 ∧ decode op = .ok (.addImm (fieldX op) (fieldKK op))) ∨
    (fieldG op = 0x8#4 ∧ decode op = decodeGroup8 op) ∨
    (fieldG op = 0x9#4 ∧ decode op = .ok (.sneReg (fieldX op) (fieldY op))) ∨
    (fieldG op = 0xA#4 ∧ decode op = .ok (.ldI (fieldNNN op))) ∨
    (fieldG op = 0xB#4 ∧ decode op = .ok (.jpV0 (fieldNNN op))) ∨
    (fieldG op = 0xC#4 ∧ decode op = .ok (.rnd (fieldX op) (fieldKK op))) ∨
    (fieldG op = 0xD#4 ∧ decode op = .ok (.drw (fieldX op) (fieldY op) (fieldN op))) ∨
    (fieldG op = 0xE#4 ∧ decode op = decodeGroupE op) ∨
    (fieldG op = 0xF#4 ∧ decode op = decodeGroupF op) := by
  have hg : ∀ g : BitVec 4, g = 0x0#4 ∨ g = 0x1#4 ∨ g = 0x2#4 ∨ g = 0x3#4 ∨ g = 0x4#4 ∨ g = 0x5#4 ∨ g = 0x6#4 ∨
      g = 0x7#4 ∨ g = 0x8#4 ∨ g = 0x9#4 ∨ g = 0xA#4 ∨ g = 0xB#4 ∨ g = 0xC#4 ∨ g = 0xD#4 ∨ g = 0xE#4 ∨ g = 0xF#4 := by
    decide
  rcases hg (fieldG op) with h | h | h | h | h | h | h | h | h | h | h | h | h | h | h | h <;> simp [decode, h]

/-- A word is its first byte, then its second (20_memory.md R68). -/
@[simp] theorem wordOfBytes_bytes (op : Word) : wordOfBytes (firstByte op) (secondByte op) = op := by
  apply BitVec.eq_of_toNat_eq
  refine (toNat_append (firstByte op) (secondByte op)).trans ?_
  simp only [firstByte, secondByte, BitVec.extractLsb'_toNat, Nat.shiftRight_eq_div_pow]
  omega

end Sys2Proof
end

