-- ==== Sys2Proof/Laws/State.lean ====
section
/-!
SUPPORT. One lemma per field per update of the state, true by rfl, so that no later proof unfolds a record update.
-/

namespace Sys2Proof.Machine

variable (s : State)

@[simp] theorem State.writeV_mem (r : RegNo) (b : Byte) : (s.writeV r b).mem = s.mem := rfl
@[simp] theorem State.writeV_v (r : RegNo) (b : Byte) : (s.writeV r b).v = s.v.set r b := rfl
@[simp] theorem State.writeV_i (r : RegNo) (b : Byte) : (s.writeV r b).i = s.i := rfl
@[simp] theorem State.writeV_pc (r : RegNo) (b : Byte) : (s.writeV r b).pc = s.pc := rfl
@[simp] theorem State.writeV_stack (r : RegNo) (b : Byte) : (s.writeV r b).stack = s.stack := rfl
@[simp] theorem State.writeV_sp (r : RegNo) (b : Byte) : (s.writeV r b).sp = s.sp := rfl
@[simp] theorem State.writeV_dt (r : RegNo) (b : Byte) : (s.writeV r b).dt = s.dt := rfl
@[simp] theorem State.writeV_st (r : RegNo) (b : Byte) : (s.writeV r b).st = s.st := rfl
@[simp] theorem State.writeV_keys (r : RegNo) (b : Byte) : (s.writeV r b).keys = s.keys := rfl
@[simp] theorem State.writeV_fb (r : RegNo) (b : Byte) : (s.writeV r b).fb = s.fb := rfl
@[simp] theorem State.writeV_fault (r : RegNo) (b : Byte) : (s.writeV r b).fault = s.fault := rfl
@[simp] theorem State.writeV_wait (r : RegNo) (b : Byte) : (s.writeV r b).wait = s.wait := rfl
@[simp] theorem State.writeV_font (r : RegNo) (b : Byte) : (s.writeV r b).font = s.font := rfl
@[simp] theorem State.writeV_keyWaitMode (r : RegNo) (b : Byte) : (s.writeV r b).keyWaitMode = s.keyWaitMode := rfl
@[simp] theorem State.writeV_draws (r : RegNo) (b : Byte) : (s.writeV r b).draws = s.draws := rfl
@[simp] theorem State.writeV_readByte (r : RegNo) (b : Byte) (q : Nat) : (s.writeV r b).readByte q = s.readByte q := rfl
@[simp] theorem State.writeV_pixel (r : RegNo) (b : Byte) (c' : Fin 64) (r' : Fin 32) : (s.writeV r b).pixel c' r' = s.pixel c' r' := rfl
@[simp] theorem State.writeV_key (r : RegNo) (b : Byte) (q : Nat) : (s.writeV r b).key q = s.key q := rfl

@[simp] theorem State.setI_mem (a : Word) : (s.setI a).mem = s.mem := rfl
@[simp] theorem State.setI_v (a : Word) : (s.setI a).v = s.v := rfl
@[simp] theorem State.setI_i (a : Word) : (s.setI a).i = a := rfl
@[simp] theorem State.setI_pc (a : Word) : (s.setI a).pc = s.pc := rfl
@[simp] theorem State.setI_stack (a : Word) : (s.setI a).stack = s.stack := rfl
@[simp] theorem State.setI_sp (a : Word) : (s.setI a).sp = s.sp := rfl
@[simp] theorem State.setI_dt (a : Word) : (s.setI a).dt = s.dt := rfl
@[simp] theorem State.setI_st (a : Word) : (s.setI a).st = s.st := rfl
@[simp] theorem State.setI_keys (a : Word) : (s.setI a).keys = s.keys := rfl
@[simp] theorem State.setI_fb (a : Word) : (s.setI a).fb = s.fb := rfl
@[simp] theorem State.setI_fault (a : Word) : (s.setI a).fault = s.fault := rfl
@[simp] theorem State.setI_wait (a : Word) : (s.setI a).wait = s.wait := rfl
@[simp] theorem State.setI_font (a : Word) : (s.setI a).font = s.font := rfl
@[simp] theorem State.setI_keyWaitMode (a : Word) : (s.setI a).keyWaitMode = s.keyWaitMode := rfl
@[simp] theorem State.setI_draws (a : Word) : (s.setI a).draws = s.draws := rfl
@[simp] theorem State.setI_readV (a : Word) (q : RegNo) : (s.setI a).readV q = s.readV q := rfl
@[simp] theorem State.setI_readByte (a : Word) (q : Nat) : (s.setI a).readByte q = s.readByte q := rfl
@[simp] theorem State.setI_pixel (a : Word) (c' : Fin 64) (r' : Fin 32) : (s.setI a).pixel c' r' = s.pixel c' r' := rfl
@[simp] theorem State.setI_key (a : Word) (q : Nat) : (s.setI a).key q = s.key q := rfl

@[simp] theorem State.setPc_mem (t : Word) : (s.setPc t).mem = s.mem := rfl
@[simp] theorem State.setPc_v (t : Word) : (s.setPc t).v = s.v := rfl
@[simp] theorem State.setPc_i (t : Word) : (s.setPc t).i = s.i := rfl
@[simp] theorem State.setPc_pc (t : Word) : (s.setPc t).pc = t := rfl
@[simp] theorem State.setPc_stack (t : Word) : (s.setPc t).stack = s.stack := rfl
@[simp] theorem State.setPc_sp (t : Word) : (s.setPc t).sp = s.sp := rfl
@[simp] theorem State.setPc_dt (t : Word) : (s.setPc t).dt = s.dt := rfl
@[simp] theorem State.setPc_st (t : Word) : (s.setPc t).st = s.st := rfl
@[simp] theorem State.setPc_keys (t : Word) : (s.setPc t).keys = s.keys := rfl
@[simp] theorem State.setPc_fb (t : Word) : (s.setPc t).fb = s.fb := rfl
@[simp] theorem State.setPc_fault (t : Word) : (s.setPc t).fault = s.fault := rfl
@[simp] theorem State.setPc_wait (t : Word) : (s.setPc t).wait = s.wait := rfl
@[simp] theorem State.setPc_font (t : Word) : (s.setPc t).font = s.font := rfl
@[simp] theorem State.setPc_keyWaitMode (t : Word) : (s.setPc t).keyWaitMode = s.keyWaitMode := rfl
@[simp] theorem State.setPc_draws (t : Word) : (s.setPc t).draws = s.draws := rfl
@[simp] theorem State.setPc_readV (t : Word) (q : RegNo) : (s.setPc t).readV q = s.readV q := rfl
@[simp] theorem State.setPc_readByte (t : Word) (q : Nat) : (s.setPc t).readByte q = s.readByte q := rfl
@[simp] theorem State.setPc_pixel (t : Word) (c' : Fin 64) (r' : Fin 32) : (s.setPc t).pixel c' r' = s.pixel c' r' := rfl
@[simp] theorem State.setPc_key (t : Word) (q : Nat) : (s.setPc t).key q = s.key q := rfl

@[simp] theorem State.advance_mem : (s.advance).mem = s.mem := rfl
@[simp] theorem State.advance_v : (s.advance).v = s.v := rfl
@[simp] theorem State.advance_i : (s.advance).i = s.i := rfl
@[simp] theorem State.advance_pc : (s.advance).pc = s.pc + 2 := rfl
@[simp] theorem State.advance_stack : (s.advance).stack = s.stack := rfl
@[simp] theorem State.advance_sp : (s.advance).sp = s.sp := rfl
@[simp] theorem State.advance_dt : (s.advance).dt = s.dt := rfl
@[simp] theorem State.advance_st : (s.advance).st = s.st := rfl
@[simp] theorem State.advance_keys : (s.advance).keys = s.keys := rfl
@[simp] theorem State.advance_fb : (s.advance).fb = s.fb := rfl
@[simp] theorem State.advance_fault : (s.advance).fault = s.fault := rfl
@[simp] theorem State.advance_wait : (s.advance).wait = s.wait := rfl
@[simp] theorem State.advance_font : (s.advance).font = s.font := rfl
@[simp] theorem State.advance_keyWaitMode : (s.advance).keyWaitMode = s.keyWaitMode := rfl
@[simp] theorem State.advance_draws : (s.advance).draws = s.draws := rfl
@[simp] theorem State.advance_readV (q : RegNo) : (s.advance).readV q = s.readV q := rfl
@[simp] theorem State.advance_readByte (q : Nat) : (s.advance).readByte q = s.readByte q := rfl
@[simp] theorem State.advance_pixel (c' : Fin 64) (r' : Fin 32) : (s.advance).pixel c' r' = s.pixel c' r' := rfl
@[simp] theorem State.advance_key (q : Nat) : (s.advance).key q = s.key q := rfl

@[simp] theorem State.skipIf_mem (c : Bool) : (s.skipIf c).mem = s.mem := rfl
@[simp] theorem State.skipIf_v (c : Bool) : (s.skipIf c).v = s.v := rfl
@[simp] theorem State.skipIf_i (c : Bool) : (s.skipIf c).i = s.i := rfl
@[simp] theorem State.skipIf_pc (c : Bool) : (s.skipIf c).pc = if c then s.pc + 4 else s.pc + 2 := rfl
@[simp] theorem State.skipIf_stack (c : Bool) : (s.skipIf c).stack = s.stack := rfl
@[simp] theorem State.skipIf_sp (c : Bool) : (s.skipIf c).sp = s.sp := rfl
@[simp] theorem State.skipIf_dt (c : Bool) : (s.skipIf c).dt = s.dt := rfl
@[simp] theorem State.skipIf_st (c : Bool) : (s.skipIf c).st = s.st := rfl
@[simp] theorem State.skipIf_keys (c : Bool) : (s.skipIf c).keys = s.keys := rfl
@[simp] theorem State.skipIf_fb (c : Bool) : (s.skipIf c).fb = s.fb := rfl
@[simp] theorem State.skipIf_fault (c : Bool) : (s.skipIf c).fault = s.fault := rfl
@[simp] theorem State.skipIf_wait (c : Bool) : (s.skipIf c).wait = s.wait := rfl
@[simp] theorem State.skipIf_font (c : Bool) : (s.skipIf c).font = s.font := rfl
@[simp] theorem State.skipIf_keyWaitMode (c : Bool) : (s.skipIf c).keyWaitMode = s.keyWaitMode := rfl
@[simp] theorem State.skipIf_draws (c : Bool) : (s.skipIf c).draws = s.draws := rfl
@[simp] theorem State.skipIf_readV (c : Bool) (q : RegNo) : (s.skipIf c).readV q = s.readV q := rfl
@[simp] theorem State.skipIf_readByte (c : Bool) (q : Nat) : (s.skipIf c).readByte q = s.readByte q := rfl
@[simp] theorem State.skipIf_pixel (c : Bool) (c' : Fin 64) (r' : Fin 32) : (s.skipIf c).pixel c' r' = s.pixel c' r' := rfl
@[simp] theorem State.skipIf_key (c : Bool) (q : Nat) : (s.skipIf c).key q = s.key q := rfl

@[simp] theorem State.writeByte_mem (a : Nat) (b : Byte) : (s.writeByte a b).mem = Memory.write s.font s.mem a b := rfl
@[simp] theorem State.writeByte_v (a : Nat) (b : Byte) : (s.writeByte a b).v = s.v := rfl
@[simp] theorem State.writeByte_i (a : Nat) (b : Byte) : (s.writeByte a b).i = s.i := rfl
@[simp] theorem State.writeByte_pc (a : Nat) (b : Byte) : (s.writeByte a b).pc = s.pc := rfl
@[simp] theorem State.writeByte_stack (a : Nat) (b : Byte) : (s.writeByte a b).stack = s.stack := rfl
@[simp] theorem State.writeByte_sp (a : Nat) (b : Byte) : (s.writeByte a b).sp = s.sp := rfl
@[simp] theorem State.writeByte_dt (a : Nat) (b : Byte) : (s.writeByte a b).dt = s.dt := rfl
@[simp] theorem State.writeByte_st (a : Nat) (b : Byte) : (s.writeByte a b).st = s.st := rfl
@[simp] theorem State.writeByte_keys (a : Nat) (b : Byte) : (s.writeByte a b).keys = s.keys := rfl
@[simp] theorem State.writeByte_fb (a : Nat) (b : Byte) : (s.writeByte a b).fb = s.fb := rfl
@[simp] theorem State.writeByte_fault (a : Nat) (b : Byte) : (s.writeByte a b).fault = s.fault := rfl
@[simp] theorem State.writeByte_wait (a : Nat) (b : Byte) : (s.writeByte a b).wait = s.wait := rfl
@[simp] theorem State.writeByte_font (a : Nat) (b : Byte) : (s.writeByte a b).font = s.font := rfl
@[simp] theorem State.writeByte_keyWaitMode (a : Nat) (b : Byte) : (s.writeByte a b).keyWaitMode = s.keyWaitMode := rfl
@[simp] theorem State.writeByte_draws (a : Nat) (b : Byte) : (s.writeByte a b).draws = s.draws := rfl
@[simp] theorem State.writeByte_readV (a : Nat) (b : Byte) (q : RegNo) : (s.writeByte a b).readV q = s.readV q := rfl
@[simp] theorem State.writeByte_pixel (a : Nat) (b : Byte) (c' : Fin 64) (r' : Fin 32) : (s.writeByte a b).pixel c' r' = s.pixel c' r' := rfl
@[simp] theorem State.writeByte_key (a : Nat) (b : Byte) (q : Nat) : (s.writeByte a b).key q = s.key q := rfl

@[simp] theorem State.setKeyFlag_mem (k : Fin 16) (p : Bool) : (s.setKeyFlag k p).mem = s.mem := rfl
@[simp] theorem State.setKeyFlag_v (k : Fin 16) (p : Bool) : (s.setKeyFlag k p).v = s.v := rfl
@[simp] theorem State.setKeyFlag_i (k : Fin 16) (p : Bool) : (s.setKeyFlag k p).i = s.i := rfl
@[simp] theorem State.setKeyFlag_pc (k : Fin 16) (p : Bool) : (s.setKeyFlag k p).pc = s.pc := rfl
@[simp] theorem State.setKeyFlag_stack (k : Fin 16) (p : Bool) : (s.setKeyFlag k p).stack = s.stack := rfl
@[simp] theorem State.setKeyFlag_sp (k : Fin 16) (p : Bool) : (s.setKeyFlag k p).sp = s.sp := rfl
@[simp] theorem State.setKeyFlag_dt (k : Fin 16) (p : Bool) : (s.setKeyFlag k p).dt = s.dt := rfl
@[simp] theorem State.setKeyFlag_st (k : Fin 16) (p : Bool) : (s.setKeyFlag k p).st = s.st := rfl
@[simp] theorem State.setKeyFlag_keys (k : Fin 16) (p : Bool) : (s.setKeyFlag k p).keys = s.keys.set k p := rfl
@[simp] theorem State.setKeyFlag_fb (k : Fin 16) (p : Bool) : (s.setKeyFlag k p).fb = s.fb := rfl
@[simp] theorem State.setKeyFlag_fault (k : Fin 16) (p : Bool) : (s.setKeyFlag k p).fault = s.fault := rfl
@[simp] theorem State.setKeyFlag_wait (k : Fin 16) (p : Bool) : (s.setKeyFlag k p).wait = s.wait := rfl
@[simp] theorem State.setKeyFlag_font (k : Fin 16) (p : Bool) : (s.setKeyFlag k p).font = s.font := rfl
@[simp] theorem State.setKeyFlag_keyWaitMode (k : Fin 16) (p : Bool) : (s.setKeyFlag k p).keyWaitMode = s.keyWaitMode := rfl
@[simp] theorem State.setKeyFlag_draws (k : Fin 16) (p : Bool) : (s.setKeyFlag k p).draws = s.draws := rfl
@[simp] theorem State.setKeyFlag_readV (k : Fin 16) (p : Bool) (q : RegNo) : (s.setKeyFlag k p).readV q = s.readV q := rfl
@[simp] theorem State.setKeyFlag_readByte (k : Fin 16) (p : Bool) (q : Nat) : (s.setKeyFlag k p).readByte q = s.readByte q := rfl
@[simp] theorem State.setKeyFlag_pixel (k : Fin 16) (p : Bool) (c' : Fin 64) (r' : Fin 32) : (s.setKeyFlag k p).pixel c' r' = s.pixel c' r' := rfl

@[simp] theorem State.setDT_mem (b : Byte) : (s.setDT b).mem = s.mem := rfl
@[simp] theorem State.setDT_v (b : Byte) : (s.setDT b).v = s.v := rfl
@[simp] theorem State.setDT_i (b : Byte) : (s.setDT b).i = s.i := rfl
@[simp] theorem State.setDT_pc (b : Byte) : (s.setDT b).pc = s.pc := rfl
@[simp] theorem State.setDT_stack (b : Byte) : (s.setDT b).stack = s.stack := rfl
@[simp] theorem State.setDT_sp (b : Byte) : (s.setDT b).sp = s.sp := rfl
@[simp] theorem State.setDT_dt (b : Byte) : (s.setDT b).dt = b := rfl
@[simp] theorem State.setDT_st (b : Byte) : (s.setDT b).st = s.st := rfl
@[simp] theorem State.setDT_keys (b : Byte) : (s.setDT b).keys = s.keys := rfl
@[simp] theorem State.setDT_fb (b : Byte) : (s.setDT b).fb = s.fb := rfl
@[simp] theorem State.setDT_fault (b : Byte) : (s.setDT b).fault = s.fault := rfl
@[simp] theorem State.setDT_wait (b : Byte) : (s.setDT b).wait = s.wait := rfl
@[simp] theorem State.setDT_font (b : Byte) : (s.setDT b).font = s.font := rfl
@[simp] theorem State.setDT_keyWaitMode (b : Byte) : (s.setDT b).keyWaitMode = s.keyWaitMode := rfl
@[simp] theorem State.setDT_draws (b : Byte) : (s.setDT b).draws = s.draws := rfl
@[simp] theorem State.setDT_readV (b : Byte) (q : RegNo) : (s.setDT b).readV q = s.readV q := rfl
@[simp] theorem State.setDT_readByte (b : Byte) (q : Nat) : (s.setDT b).readByte q = s.readByte q := rfl
@[simp] theorem State.setDT_pixel (b : Byte) (c' : Fin 64) (r' : Fin 32) : (s.setDT b).pixel c' r' = s.pixel c' r' := rfl
@[simp] theorem State.setDT_key (b : Byte) (q : Nat) : (s.setDT b).key q = s.key q := rfl

@[simp] theorem State.setST_mem (b : Byte) : (s.setST b).mem = s.mem := rfl
@[simp] theorem State.setST_v (b : Byte) : (s.setST b).v = s.v := rfl
@[simp] theorem State.setST_i (b : Byte) : (s.setST b).i = s.i := rfl
@[simp] theorem State.setST_pc (b : Byte) : (s.setST b).pc = s.pc := rfl
@[simp] theorem State.setST_stack (b : Byte) : (s.setST b).stack = s.stack := rfl
@[simp] theorem State.setST_sp (b : Byte) : (s.setST b).sp = s.sp := rfl
@[simp] theorem State.setST_dt (b : Byte) : (s.setST b).dt = s.dt := rfl
@[simp] theorem State.setST_st (b : Byte) : (s.setST b).st = b := rfl
@[simp] theorem State.setST_keys (b : Byte) : (s.setST b).keys = s.keys := rfl
@[simp] theorem State.setST_fb (b : Byte) : (s.setST b).fb = s.fb := rfl
@[simp] theorem State.setST_fault (b : Byte) : (s.setST b).fault = s.fault := rfl
@[simp] theorem State.setST_wait (b : Byte) : (s.setST b).wait = s.wait := rfl
@[simp] theorem State.setST_font (b : Byte) : (s.setST b).font = s.font := rfl
@[simp] theorem State.setST_keyWaitMode (b : Byte) : (s.setST b).keyWaitMode = s.keyWaitMode := rfl
@[simp] theorem State.setST_draws (b : Byte) : (s.setST b).draws = s.draws := rfl
@[simp] theorem State.setST_readV (b : Byte) (q : RegNo) : (s.setST b).readV q = s.readV q := rfl
@[simp] theorem State.setST_readByte (b : Byte) (q : Nat) : (s.setST b).readByte q = s.readByte q := rfl
@[simp] theorem State.setST_pixel (b : Byte) (c' : Fin 64) (r' : Fin 32) : (s.setST b).pixel c' r' = s.pixel c' r' := rfl
@[simp] theorem State.setST_key (b : Byte) (q : Nat) : (s.setST b).key q = s.key q := rfl

@[simp] theorem State.setWait_mem (w : Option RegNo) : (s.setWait w).mem = s.mem := rfl
@[simp] theorem State.setWait_v (w : Option RegNo) : (s.setWait w).v = s.v := rfl
@[simp] theorem State.setWait_i (w : Option RegNo) : (s.setWait w).i = s.i := rfl
@[simp] theorem State.setWait_pc (w : Option RegNo) : (s.setWait w).pc = s.pc := rfl
@[simp] theorem State.setWait_stack (w : Option RegNo) : (s.setWait w).stack = s.stack := rfl
@[simp] theorem State.setWait_sp (w : Option RegNo) : (s.setWait w).sp = s.sp := rfl
@[simp] theorem State.setWait_dt (w : Option RegNo) : (s.setWait w).dt = s.dt := rfl
@[simp] theorem State.setWait_st (w : Option RegNo) : (s.setWait w).st = s.st := rfl
@[simp] theorem State.setWait_keys (w : Option RegNo) : (s.setWait w).keys = s.keys := rfl
@[simp] theorem State.setWait_fb (w : Option RegNo) : (s.setWait w).fb = s.fb := rfl
@[simp] theorem State.setWait_fault (w : Option RegNo) : (s.setWait w).fault = s.fault := rfl
@[simp] theorem State.setWait_wait (w : Option RegNo) : (s.setWait w).wait = w := rfl
@[simp] theorem State.setWait_font (w : Option RegNo) : (s.setWait w).font = s.font := rfl
@[simp] theorem State.setWait_keyWaitMode (w : Option RegNo) : (s.setWait w).keyWaitMode = s.keyWaitMode := rfl
@[simp] theorem State.setWait_draws (w : Option RegNo) : (s.setWait w).draws = s.draws := rfl
@[simp] theorem State.setWait_readV (w : Option RegNo) (q : RegNo) : (s.setWait w).readV q = s.readV q := rfl
@[simp] theorem State.setWait_readByte (w : Option RegNo) (q : Nat) : (s.setWait w).readByte q = s.readByte q := rfl
@[simp] theorem State.setWait_pixel (w : Option RegNo) (c' : Fin 64) (r' : Fin 32) : (s.setWait w).pixel c' r' = s.pixel c' r' := rfl
@[simp] theorem State.setWait_key (w : Option RegNo) (q : Nat) : (s.setWait w).key q = s.key q := rfl

@[simp] theorem State.tick_mem : (s.tick).mem = s.mem := rfl
@[simp] theorem State.tick_v : (s.tick).v = s.v := rfl
@[simp] theorem State.tick_i : (s.tick).i = s.i := rfl
@[simp] theorem State.tick_pc : (s.tick).pc = s.pc := rfl
@[simp] theorem State.tick_stack : (s.tick).stack = s.stack := rfl
@[simp] theorem State.tick_sp : (s.tick).sp = s.sp := rfl
@[simp] theorem State.tick_dt : (s.tick).dt = countDown s.dt := rfl
@[simp] theorem State.tick_st : (s.tick).st = countDown s.st := rfl
@[simp] theorem State.tick_keys : (s.tick).keys = s.keys := rfl
@[simp] theorem State.tick_fb : (s.tick).fb = s.fb := rfl
@[simp] theorem State.tick_fault : (s.tick).fault = s.fault := rfl
@[simp] theorem State.tick_wait : (s.tick).wait = s.wait := rfl
@[simp] theorem State.tick_font : (s.tick).font = s.font := rfl
@[simp] theorem State.tick_keyWaitMode : (s.tick).keyWaitMode = s.keyWaitMode := rfl
@[simp] theorem State.tick_draws : (s.tick).draws = s.draws := rfl
@[simp] theorem State.tick_readV (q : RegNo) : (s.tick).readV q = s.readV q := rfl
@[simp] theorem State.tick_readByte (q : Nat) : (s.tick).readByte q = s.readByte q := rfl
@[simp] theorem State.tick_pixel (c' : Fin 64) (r' : Fin 32) : (s.tick).pixel c' r' = s.pixel c' r' := rfl
@[simp] theorem State.tick_key (q : Nat) : (s.tick).key q = s.key q := rfl

@[simp] theorem State.setFb_mem (f : Framebuffer) : (s.setFb f).mem = s.mem := rfl
@[simp] theorem State.setFb_v (f : Framebuffer) : (s.setFb f).v = s.v := rfl
@[simp] theorem State.setFb_i (f : Framebuffer) : (s.setFb f).i = s.i := rfl
@[simp] theorem State.setFb_pc (f : Framebuffer) : (s.setFb f).pc = s.pc := rfl
@[simp] theorem State.setFb_stack (f : Framebuffer) : (s.setFb f).stack = s.stack := rfl
@[simp] theorem State.setFb_sp (f : Framebuffer) : (s.setFb f).sp = s.sp := rfl
@[simp] theorem State.setFb_dt (f : Framebuffer) : (s.setFb f).dt = s.dt := rfl
@[simp] theorem State.setFb_st (f : Framebuffer) : (s.setFb f).st = s.st := rfl
@[simp] theorem State.setFb_keys (f : Framebuffer) : (s.setFb f).keys = s.keys := rfl
@[simp] theorem State.setFb_fb (f : Framebuffer) : (s.setFb f).fb = f := rfl
@[simp] theorem State.setFb_fault (f : Framebuffer) : (s.setFb f).fault = s.fault := rfl
@[simp] theorem State.setFb_wait (f : Framebuffer) : (s.setFb f).wait = s.wait := rfl
@[simp] theorem State.setFb_font (f : Framebuffer) : (s.setFb f).font = s.font := rfl
@[simp] theorem State.setFb_keyWaitMode (f : Framebuffer) : (s.setFb f).keyWaitMode = s.keyWaitMode := rfl
@[simp] theorem State.setFb_draws (f : Framebuffer) : (s.setFb f).draws = s.draws := rfl
@[simp] theorem State.setFb_readV (f : Framebuffer) (q : RegNo) : (s.setFb f).readV q = s.readV q := rfl
@[simp] theorem State.setFb_readByte (f : Framebuffer) (q : Nat) : (s.setFb f).readByte q = s.readByte q := rfl
@[simp] theorem State.setFb_key (f : Framebuffer) (q : Nat) : (s.setFb f).key q = s.key q := rfl

@[simp] theorem State.draw_mem : (s.draw.2).mem = s.mem := rfl
@[simp] theorem State.draw_v : (s.draw.2).v = s.v := rfl
@[simp] theorem State.draw_i : (s.draw.2).i = s.i := rfl
@[simp] theorem State.draw_pc : (s.draw.2).pc = s.pc := rfl
@[simp] theorem State.draw_stack : (s.draw.2).stack = s.stack := rfl
@[simp] theorem State.draw_sp : (s.draw.2).sp = s.sp := rfl
@[simp] theorem State.draw_dt : (s.draw.2).dt = s.dt := rfl
@[simp] theorem State.draw_st : (s.draw.2).st = s.st := rfl
@[simp] theorem State.draw_keys : (s.draw.2).keys = s.keys := rfl
@[simp] theorem State.draw_fb : (s.draw.2).fb = s.fb := rfl
@[simp] theorem State.draw_fault : (s.draw.2).fault = s.fault := rfl
@[simp] theorem State.draw_wait : (s.draw.2).wait = s.wait := rfl
@[simp] theorem State.draw_font : (s.draw.2).font = s.font := rfl
@[simp] theorem State.draw_keyWaitMode : (s.draw.2).keyWaitMode = s.keyWaitMode := rfl
@[simp] theorem State.draw_draws : (s.draw.2).draws = s.draws + 1 := rfl
@[simp] theorem State.draw_readV (q : RegNo) : (s.draw.2).readV q = s.readV q := rfl
@[simp] theorem State.draw_readByte (q : Nat) : (s.draw.2).readByte q = s.readByte q := rfl
@[simp] theorem State.draw_pixel (c' : Fin 64) (r' : Fin 32) : (s.draw.2).pixel c' r' = s.pixel c' r' := rfl
@[simp] theorem State.draw_key (q : Nat) : (s.draw.2).key q = s.key q := rfl

@[simp] theorem State.raise_mem (code : FaultCode) (op : Option Word) (addr : Option Nat) : (s.raise code op addr).mem = s.mem := rfl
@[simp] theorem State.raise_v (code : FaultCode) (op : Option Word) (addr : Option Nat) : (s.raise code op addr).v = s.v := rfl
@[simp] theorem State.raise_i (code : FaultCode) (op : Option Word) (addr : Option Nat) : (s.raise code op addr).i = s.i := rfl
@[simp] theorem State.raise_pc (code : FaultCode) (op : Option Word) (addr : Option Nat) : (s.raise code op addr).pc = s.pc := rfl
@[simp] theorem State.raise_stack (code : FaultCode) (op : Option Word) (addr : Option Nat) : (s.raise code op addr).stack = s.stack := rfl
@[simp] theorem State.raise_sp (code : FaultCode) (op : Option Word) (addr : Option Nat) : (s.raise code op addr).sp = s.sp := rfl
@[simp] theorem State.raise_dt (code : FaultCode) (op : Option Word) (addr : Option Nat) : (s.raise code op addr).dt = s.dt := rfl
@[simp] theorem State.raise_st (code : FaultCode) (op : Option Word) (addr : Option Nat) : (s.raise code op addr).st = s.st := rfl
@[simp] theorem State.raise_keys (code : FaultCode) (op : Option Word) (addr : Option Nat) : (s.raise code op addr).keys = s.keys := rfl
@[simp] theorem State.raise_fb (code : FaultCode) (op : Option Word) (addr : Option Nat) : (s.raise code op addr).fb = s.fb := rfl
@[simp] theorem State.raise_fault (code : FaultCode) (op : Option Word) (addr : Option Nat) : (s.raise code op addr).fault = some { code := code, pc := s.pc, op := op, addr := addr.map (BitVec.ofNat 17) } := rfl
@[simp] theorem State.raise_wait (code : FaultCode) (op : Option Word) (addr : Option Nat) : (s.raise code op addr).wait = s.wait := rfl
@[simp] theorem State.raise_font (code : FaultCode) (op : Option Word) (addr : Option Nat) : (s.raise code op addr).font = s.font := rfl
@[simp] theorem State.raise_keyWaitMode (code : FaultCode) (op : Option Word) (addr : Option Nat) : (s.raise code op addr).keyWaitMode = s.keyWaitMode := rfl
@[simp] theorem State.raise_draws (code : FaultCode) (op : Option Word) (addr : Option Nat) : (s.raise code op addr).draws = s.draws := rfl
@[simp] theorem State.raise_readV (code : FaultCode) (op : Option Word) (addr : Option Nat) (q : RegNo) : (s.raise code op addr).readV q = s.readV q := rfl
@[simp] theorem State.raise_readByte (code : FaultCode) (op : Option Word) (addr : Option Nat) (q : Nat) : (s.raise code op addr).readByte q = s.readByte q := rfl
@[simp] theorem State.raise_pixel (code : FaultCode) (op : Option Word) (addr : Option Nat) (c' : Fin 64) (r' : Fin 32) : (s.raise code op addr).pixel c' r' = s.pixel c' r' := rfl
@[simp] theorem State.raise_key (code : FaultCode) (op : Option Word) (addr : Option Nat) (q : Nat) : (s.raise code op addr).key q = s.key q := rfl

@[simp] theorem State.writeResultFlag_mem (x : RegNo) (b : Byte) (c : Bool) : (s.writeResultFlag x b c).mem = s.mem := rfl
@[simp] theorem State.writeResultFlag_v (x : RegNo) (b : Byte) (c : Bool) : (s.writeResultFlag x b c).v = (s.v.set x b).set flagReg (flagByte c) := rfl
@[simp] theorem State.writeResultFlag_i (x : RegNo) (b : Byte) (c : Bool) : (s.writeResultFlag x b c).i = s.i := rfl
@[simp] theorem State.writeResultFlag_pc (x : RegNo) (b : Byte) (c : Bool) : (s.writeResultFlag x b c).pc = s.pc := rfl
@[simp] theorem State.writeResultFlag_stack (x : RegNo) (b : Byte) (c : Bool) : (s.writeResultFlag x b c).stack = s.stack := rfl
@[simp] theorem State.writeResultFlag_sp (x : RegNo) (b : Byte) (c : Bool) : (s.writeResultFlag x b c).sp = s.sp := rfl
@[simp] theorem State.writeResultFlag_dt (x : RegNo) (b : Byte) (c : Bool) : (s.writeResultFlag x b c).dt = s.dt := rfl
@[simp] theorem State.writeResultFlag_st (x : RegNo) (b : Byte) (c : Bool) : (s.writeResultFlag x b c).st = s.st := rfl
@[simp] theorem State.writeResultFlag_keys (x : RegNo) (b : Byte) (c : Bool) : (s.writeResultFlag x b c).keys = s.keys := rfl
@[simp] theorem State.writeResultFlag_fb (x : RegNo) (b : Byte) (c : Bool) : (s.writeResultFlag x b c).fb = s.fb := rfl
@[simp] theorem State.writeResultFlag_fault (x : RegNo) (b : Byte) (c : Bool) : (s.writeResultFlag x b c).fault = s.fault := rfl
@[simp] theorem State.writeResultFlag_wait (x : RegNo) (b : Byte) (c : Bool) : (s.writeResultFlag x b c).wait = s.wait := rfl
@[simp] theorem State.writeResultFlag_font (x : RegNo) (b : Byte) (c : Bool) : (s.writeResultFlag x b c).font = s.font := rfl
@[simp] theorem State.writeResultFlag_keyWaitMode (x : RegNo) (b : Byte) (c : Bool) : (s.writeResultFlag x b c).keyWaitMode = s.keyWaitMode := rfl
@[simp] theorem State.writeResultFlag_draws (x : RegNo) (b : Byte) (c : Bool) : (s.writeResultFlag x b c).draws = s.draws := rfl
@[simp] theorem State.writeResultFlag_readByte (x : RegNo) (b : Byte) (c : Bool) (q : Nat) : (s.writeResultFlag x b c).readByte q = s.readByte q := rfl
@[simp] theorem State.writeResultFlag_pixel (x : RegNo) (b : Byte) (c : Bool) (c' : Fin 64) (r' : Fin 32) : (s.writeResultFlag x b c).pixel c' r' = s.pixel c' r' := rfl
@[simp] theorem State.writeResultFlag_key (x : RegNo) (b : Byte) (c : Bool) (q : Nat) : (s.writeResultFlag x b c).key q = s.key q := rfl

@[simp] theorem State.writeFlag_mem (c : Bool) : (s.writeFlag c).mem = s.mem := rfl
@[simp] theorem State.writeFlag_v (c : Bool) : (s.writeFlag c).v = s.v.set flagReg (flagByte c) := rfl
@[simp] theorem State.writeFlag_i (c : Bool) : (s.writeFlag c).i = s.i := rfl
@[simp] theorem State.writeFlag_pc (c : Bool) : (s.writeFlag c).pc = s.pc := rfl
@[simp] theorem State.writeFlag_stack (c : Bool) : (s.writeFlag c).stack = s.stack := rfl
@[simp] theorem State.writeFlag_sp (c : Bool) : (s.writeFlag c).sp = s.sp := rfl
@[simp] theorem State.writeFlag_dt (c : Bool) : (s.writeFlag c).dt = s.dt := rfl
@[simp] theorem State.writeFlag_st (c : Bool) : (s.writeFlag c).st = s.st := rfl
@[simp] theorem State.writeFlag_keys (c : Bool) : (s.writeFlag c).keys = s.keys := rfl
@[simp] theorem State.writeFlag_fb (c : Bool) : (s.writeFlag c).fb = s.fb := rfl
@[simp] theorem State.writeFlag_fault (c : Bool) : (s.writeFlag c).fault = s.fault := rfl
@[simp] theorem State.writeFlag_wait (c : Bool) : (s.writeFlag c).wait = s.wait := rfl
@[simp] theorem State.writeFlag_font (c : Bool) : (s.writeFlag c).font = s.font := rfl
@[simp] theorem State.writeFlag_keyWaitMode (c : Bool) : (s.writeFlag c).keyWaitMode = s.keyWaitMode := rfl
@[simp] theorem State.writeFlag_draws (c : Bool) : (s.writeFlag c).draws = s.draws := rfl
@[simp] theorem State.writeFlag_readByte (c : Bool) (q : Nat) : (s.writeFlag c).readByte q = s.readByte q := rfl
@[simp] theorem State.writeFlag_pixel (c : Bool) (c' : Fin 64) (r' : Fin 32) : (s.writeFlag c).pixel c' r' = s.pixel c' r' := rfl
@[simp] theorem State.writeFlag_key (c : Bool) (q : Nat) : (s.writeFlag c).key q = s.key q := rfl

end Sys2Proof.Machine
end

