-- ==== Sys2Proof/Laws/Memory.lean ====
section
/-!
SUPPORT. Memory: what a read answers after a write, and that every memory operation keeps the canonical form.
-/

namespace Sys2Proof.Machine

/-- A byte that is found is a listed cell. -/
theorem Memory.lookup_mem {m : Memory} {a : Nat} {b : Byte} (h : Memory.lookup m a = some b) : (a, b) ∈ m := by
  induction m with
  | nil => simp [Memory.lookup] at h
  | cons c m ih =>
    simp only [Memory.lookup] at h
    split at h
    · rename_i hk
      simp only [Option.some.injEq] at h
      subst hk h
      simp
    · exact List.mem_cons_of_mem _ (ih h)

theorem Memory.lookup_insert (m : Memory) (a : Nat) (b : Byte) (q : Nat) :
    Memory.lookup (Memory.insert a b m) q = if a = q then some b else Memory.lookup m q := by
  induction m with
  | nil => rfl
  | cons c m ih =>
    simp only [Memory.insert]
    split
    · rfl
    · split
      · rename_i h
        subst h
        simp only [Memory.lookup]
        split <;> rfl
      · rename_i hlt hne
        simp only [Memory.lookup, ih]
        split
        · rename_i hk
          rw [if_neg (by omega)]
        · rfl

theorem Memory.lookup_erase (m : Memory) (a q : Nat) :
    Memory.lookup (Memory.erase a m) q = if a = q then none else Memory.lookup m q := by
  induction m with
  | nil => simp [Memory.erase, Memory.lookup]
  | cons c m ih =>
    simp only [Memory.erase, Memory.lookup]
    split
    · rename_i h
      rw [ih, h]
      split <;> rfl
    · simp only [Memory.lookup, ih]
      split
      · rw [if_neg (by omega)]
      · rfl

theorem Memory.mem_erase {m : Memory} {a : Nat} {c : Host.Cell} (h : c ∈ Memory.erase a m) : c ∈ m := by
  induction m with
  | nil => simp [Memory.erase] at h
  | cons d m ih =>
    simp only [Memory.erase] at h
    split at h
    · exact List.mem_cons_of_mem _ (ih h)
    · rcases List.mem_cons.1 h with h | h
      · simp [h]
      · exact List.mem_cons_of_mem _ (ih h)

theorem Memory.mem_insert {m : Memory} {a : Nat} {b : Byte} {c : Host.Cell} (h : c ∈ Memory.insert a b m) :
    c = (a, b) ∨ c ∈ m := by
  induction m with
  | nil => exact Or.inl (by simpa [Memory.insert] using h)
  | cons d m ih =>
    simp only [Memory.insert] at h
    split at h
    · rcases List.mem_cons.1 h with h | h
      · exact Or.inl h
      · exact Or.inr h
    · split at h
      · rcases List.mem_cons.1 h with h | h
        · exact Or.inl h
        · exact Or.inr (List.mem_cons_of_mem _ h)
      · rcases List.mem_cons.1 h with h | h
        · exact Or.inr (by simp [h])
        · exact (ih h).imp_right (List.mem_cons_of_mem _)

/-- Taking an address out keeps the canonical form. -/
theorem Memory.wf_erase {font : Font} {m : Memory} (h : Memory.wf font m) (a : Nat) :
    Memory.wf font (Memory.erase a m) := by
  refine ⟨?_, fun c hc => h.2 c (Memory.mem_erase hc)⟩
  have hs := h.1
  clear h
  induction m with
  | nil => exact hs
  | cons d m ih =>
    obtain ⟨hd, hm⟩ := List.pairwise_cons.1 hs
    simp only [Memory.erase]
    split
    · exact ih hm
    · exact List.pairwise_cons.2 ⟨fun c hc => hd c (Memory.mem_erase hc), ih hm⟩

/-- Putting in an address that exists, with a byte it does not read as unlisted, keeps the canonical form. -/
theorem Memory.wf_insert {font : Font} {m : Memory} (h : Memory.wf font m) {a : Nat} {b : Byte}
    (ha : a < Config.memSize) (hb : b ≠ Memory.unlisted font a) : Memory.wf font (Memory.insert a b m) := by
  refine ⟨?_, fun c hc => ?_⟩
  · have hs := h.1
    clear h
    induction m with
    | nil => simp [Memory.insert]
    | cons d m ih =>
      obtain ⟨hd, hm⟩ := List.pairwise_cons.1 hs
      simp only [Memory.insert]
      split
      · rename_i hlt
        refine List.pairwise_cons.2 ⟨fun c hc => ?_, hs⟩
        rcases List.mem_cons.1 hc with rfl | hc
        · exact hlt
        · exact Nat.lt_trans hlt (hd c hc)
      · split
        · rename_i heq
          exact List.pairwise_cons.2 ⟨fun c hc => heq ▸ hd c hc, hm⟩
        · rename_i hlt hne
          refine List.pairwise_cons.2 ⟨fun c hc => ?_, ih hm⟩
          rcases Memory.mem_insert hc with rfl | hc
          · show d.1 < a
            omega
          · exact hd c hc
  · rcases Memory.mem_insert hc with rfl | hc
    · exact ⟨ha, hb⟩
    · exact h.2 c hc

/-- A write to an address that exists keeps the canonical form. -/
theorem Memory.wf_write {font : Font} {m : Memory} (h : Memory.wf font m) {a : Nat} (ha : a < Config.memSize)
    (b : Byte) : Memory.wf font (Memory.write font m a b) := by
  unfold Memory.write
  split
  · exact Memory.wf_erase h a
  · rename_i hb
    exact Memory.wf_insert h ha hb

/-- What a read answers after a write: the byte written at its address, and elsewhere what it answered before. -/
theorem Memory.read_write (font : Font) (m : Memory) (a : Nat) (b : Byte) (q : Nat) :
    Memory.read font (Memory.write font m a b) q = if q = a then b else Memory.read font m q := by
  unfold Memory.write Memory.read
  split
  · rename_i hb
    rw [Memory.lookup_erase]
    by_cases hq : q = a
    · subst hq
      simp [hb]
    · rw [if_neg (Ne.symm hq), if_neg hq]
  · rw [Memory.lookup_insert]
    by_cases hq : q = a
    · subst hq
      simp
    · rw [if_neg (Ne.symm hq), if_neg hq]

/-- The state's read after the state's write. -/
@[simp] theorem State.readByte_writeByte (s : State) (a : Nat) (b : Byte) (q : Nat) :
    (s.writeByte a b).readByte q = if q = a then b else s.readByte q :=
  Memory.read_write s.font s.mem a b q

/-- The state's write keeps the canonical form. -/
theorem State.wf_writeByte {s : State} (h : Memory.wf s.font s.mem) {a : Nat} (ha : a < Config.memSize) (b : Byte) :
    Memory.wf (s.writeByte a b).font (s.writeByte a b).mem :=
  Memory.wf_write h ha b

end Sys2Proof.Machine
end

