-- ==== Sys2Proof/Laws/Ops.lean ====
section
/-!
SUPPORT. What each shared operation of the machine can do, said once.
-/

namespace Sys2Proof.Machine

/-! ### Registers -/

/-- A register read after a register write. -/
theorem State.readV_writeV (s : State) (r : RegNo) (b : Byte) (q : RegNo) :
    (s.writeV r b).readV q = if q = r then b else s.readV q := by
  unfold State.writeV State.readV
  by_cases h : q = r
  · subst h
    simp
  · have : r.val ≠ q.val := fun e => h (Fin.ext e.symm)
    simp [h, this]

/-- A register read after the flag is written. -/
theorem State.readV_writeFlag (s : State) (c : Bool) (q : RegNo) :
    (s.writeFlag c).readV q = if q = flagReg then flagByte c else s.readV q :=
  s.readV_writeV flagReg (flagByte c) q

/-- A register read after a result and its flag are written: the flag wins. -/
theorem State.readV_writeResultFlag (s : State) (x : RegNo) (b : Byte) (c : Bool) (q : RegNo) :
    (s.writeResultFlag x b c).readV q = if q = flagReg then flagByte c else if q = x then b else s.readV q := by
  unfold State.writeResultFlag
  rw [State.readV_writeFlag, State.readV_writeV]

/-- The values Fx55 stores: as many as it says, each a register's. -/
theorem State.regBlock_length (s : State) (x : RegNo) : (s.regBlock x).length = x.val + 1 := by
  simp [State.regBlock, blockLen]

theorem State.regBlock_getElem (s : State) (x : RegNo) (k : Nat) (h : k < (s.regBlock x).length) :
    (s.regBlock x)[k] = s.readV ⟨k, by simp [State.regBlock_length] at h; omega⟩ := by
  simp [State.regBlock, State.readV]

/-- Writing a block of registers changes `v` alone. -/
theorem State.writeRegBlock_eq (s : State) (k : Nat) (bs : List Byte) :
    s.writeRegBlock k bs = { s with v := (s.writeRegBlock k bs).v } := by
  induction bs generalizing s k with
  | nil => rfl
  | cons b bs ih =>
    simp only [State.writeRegBlock]
    split
    · exact ih _ _
    · rfl

/-- A register read after a block of registers is written. -/
theorem State.readV_writeRegBlock (s : State) (k : Nat) (bs : List Byte) (h : k + bs.length ≤ 16) (q : RegNo) :
    (s.writeRegBlock k bs).readV q = if k ≤ q.val then (bs[q.val - k]?).getD (s.readV q) else s.readV q := by
  induction bs generalizing s k with
  | nil => simp [State.writeRegBlock]
  | cons b bs ih =>
    have hlen : k + 1 + bs.length ≤ 16 := by simp at h; omega
    simp only [State.writeRegBlock, dif_pos (show k < 16 by omega)]
    rw [ih _ _ hlen, State.readV_writeV]
    by_cases hq : q.val = k
    · have : q = ⟨k, by omega⟩ := Fin.ext hq
      simp [this]
    · have hne : q ≠ ⟨k, by omega⟩ := fun e => hq (by rw [e])
      rw [if_neg hne]
      by_cases hk : k ≤ q.val
      · rw [if_pos (by omega), if_pos hk, show q.val - k = (q.val - (k + 1)) + 1 by omega]
        simp
      · rw [if_neg (by omega), if_neg hk]

/-! ### Memory blocks -/

/-- A block read: every byte, or the lowest address that does not exist (20_memory.md R67). -/
theorem State.memReads_eq (s : State) (a n : Nat) :
    s.memReads a n =
      if n = 0 ∨ a + n ≤ 4096 then .ok ((List.range n).map fun k => s.readByte (a + k)) else .error (max a 4096) := by
  induction n generalizing a with
  | zero => simp [State.memReads]
  | succ n ih =>
    simp only [State.memReads, State.memRead, Config.memSize, ih (a + 1)]
    by_cases ha : a ≥ 4096
    · rw [if_pos ha]
      dsimp only
      rw [if_neg (by omega), Nat.max_eq_left ha]
    · rw [if_neg ha]
      by_cases hn : n = 0 ∨ a + 1 + n ≤ 4096
      · rw [if_pos hn, if_pos (by omega)]
        simp only [List.range_succ_eq_map, List.map_cons, List.map_map, Nat.add_zero]
        congr 2
        apply List.map_congr_left
        intro k _
        simp only [Function.comp, Nat.succ_eq_add_one]
        congr 1
        omega
      · rw [if_neg hn, if_neg (by omega)]
        simp only [Except.error.injEq]
        omega

/-- A block write of which an address does not exist: the lowest such address, and no state. -/
theorem State.memWrites_error (s : State) (a : Nat) (bs : List Byte) (hb : bs ≠ []) (h : 4096 < a + bs.length) :
    s.memWrites a bs = .error (max a 4096) := by
  induction bs generalizing s a with
  | nil => exact absurd rfl hb
  | cons b bs ih =>
    simp only [State.memWrites, State.memWrite, Config.memSize]
    by_cases ha : a ≥ 4096
    · rw [if_pos ha]
      simp only [Except.error.injEq]
      omega
    · rw [if_neg ha]
      simp only [List.length_cons] at h
      have hne : bs ≠ [] := by
        rintro rfl
        simp at h
        omega
      have hm : max (a + 1) 4096 = max a 4096 := by omega
      rw [← hm]
      exact ih _ _ hne (by omega)

/-- A block write of which every address exists: memory alone changes, each byte lands at its address, the others keep
theirs, and the canonical form is kept. -/
theorem State.memWrites_ok (s : State) (a : Nat) (bs : List Byte) (h : a + bs.length ≤ 4096) :
    ∃ m, s.memWrites a bs = .ok { s with mem := m } ∧
      (∀ q, ({ s with mem := m } : State).readByte q =
        if a ≤ q then (bs[q - a]?).getD (s.readByte q) else s.readByte q) ∧
      (Memory.wf s.font s.mem → Memory.wf s.font m) := by
  induction bs generalizing s a with
  | nil => exact ⟨s.mem, rfl, by simp, id⟩
  | cons b bs ih =>
    simp only [List.length_cons] at h
    obtain ⟨m, hm, hr, hw⟩ := ih (s.writeByte a b) (a + 1) (by omega)
    refine ⟨m, ?_, fun q => ?_, fun hs => hw (State.wf_writeByte hs (by simp only [Config.memSize]; omega) b)⟩
    · simp only [State.memWrites, State.memWrite, Config.memSize]
      rw [if_neg (by omega)]
      exact hm
    · have := hr q
      simp only [State.readByte_writeByte] at this
      refine Eq.trans this ?_
      by_cases hq : q = a
      · subst hq
        simp
      · by_cases hk : a ≤ q
        · rw [if_pos (by omega), if_pos hk, if_neg hq, show q - a = (q - (a + 1)) + 1 by omega]
          simp
        · rw [if_neg (by omega), if_neg hk, if_neg hq]

/-! ### Stack -/

/-- A push that succeeds. -/
theorem State.push_of_lt (s : State) (a : Word) (h : s.sp.val < 16) :
    s.push a = some { s with stack := s.stack.set s.sp.val a, sp := ⟨s.sp.val + 1, by omega⟩ } := by
  simp [State.push, h]

/-- A push on a full stack. -/
theorem State.push_of_full (s : State) (a : Word) (h : s.sp.val = 16) : s.push a = none := by
  simp [State.push, h]

/-- A pop that succeeds. -/
theorem State.pop_of_pos (s : State) (h : s.sp.val ≠ 0) :
    s.pop = some (s.stack[s.sp.val - 1], { s with sp := ⟨s.sp.val - 1, by omega⟩ }) := by
  simp [State.pop, h]

/-- A pop of an empty stack. -/
theorem State.pop_of_empty (s : State) (h : s.sp.val = 0) : s.pop = none := by
  simp [State.pop, h]

/-! ### Timers -/

/-- A timer after the tick, as a number. -/
theorem countDown_toNat (b : Byte) : (countDown b).toNat = b.toNat - 1 := by
  unfold countDown
  split
  · rename_i h
    have : 0 < b.toNat := by simpa [BitVec.lt_def] using h
    rw [BitVec.toNat_sub]
    simp
    omega
  · rename_i h
    have : ¬ 0 < b.toNat := by simpa [BitVec.lt_def] using h
    omega

/-! ### Fetch -/

/-- The number of a word made of two bytes (20_memory.md R68). -/
theorem wordOfBytes_toNat (a b : Byte) : (wordOfBytes a b).toNat = a.toNat * 256 + b.toNat := by
  simp only [wordOfBytes, BitVec.toNat_append]
  rw [Nat.shiftLeft_eq, Nat.mul_comm, ← Nat.two_pow_add_eq_or_of_lt b.isLt]

/-- A fetch of which both bytes exist. -/
theorem State.fetch_ok (s : State) (h : s.pc.toNat + 1 < 4096) :
    s.fetch = .ok (wordOfBytes (s.readByte s.pc.toNat) (s.readByte (s.pc.toNat + 1))) := by
  simp only [State.fetch, Config.memSize]
  rw [if_neg (by omega)]

/-- A fetch past the end takes FetchRange. -/
theorem State.fetch_error (s : State) (h : 4096 ≤ s.pc.toNat + 1) :
    s.fetch = .error (s.raise .fetchRange none (some (max s.pc.toNat 4096))) := by
  simp only [State.fetch, Config.memSize]
  rw [if_pos (by omega)]

/-! ### Framebuffer -/

/-- A cell after another is toggled. -/
theorem Framebuffer.get_flip (f : Framebuffer) (c c' : Fin 64) (r r' : Fin 32) :
    Framebuffer.get (Framebuffer.flip f c r) c' r' =
      if c' = c ∧ r' = r then !Framebuffer.get f c r else Framebuffer.get f c' r' := by
  unfold Framebuffer.get Framebuffer.flip
  by_cases hc : c' = c
  · subst hc
    by_cases hr : r' = r
    · subst hr
      simp
    · have : r.val ≠ r'.val := fun e => hr (Fin.ext e.symm)
      simp [hr, this]
  · have : c.val ≠ c'.val := fun e => hc (Fin.ext e.symm)
    simp [hc, this]

@[simp] theorem Framebuffer.get_clear (c : Fin 64) (r : Fin 32) : Framebuffer.get Framebuffer.clear c r = false := by
  simp [Framebuffer.get, Framebuffer.clear]

end Sys2Proof.Machine
end

