-- ==== Sys2Proof/Laws/Draw.lean ====
section
/-!
SUPPORT. Drawing a sprite: the loops of 43_display.md R182 toggle each covered cell exactly once, so their result does not
depend on their order (R184).
-/

namespace Sys2Proof.Machine

/-- Toggle one cell and record a collision. -/
def toggle (d : Drawing) (p : Fin 64 × Fin 32) : Drawing :=
  (Framebuffer.flip d.1 p.1 p.2, d.2 || Framebuffer.get d.1 p.1 p.2)

/-- The cells the set bits of one sprite row land on. -/
def rowCells (bx by' : Byte) (r : Nat) (row : Byte) : List (Fin 64 × Fin 32) :=
  ([0, 1, 2, 3, 4, 5, 6, 7].filter fun col => row.getLsbD (7 - col)).map fun col => (pixelColumn bx col, pixelRow by' r)

/-- The cells a sprite's set bits land on, row offsets from `r` on. -/
def spriteCells (bx by' : Byte) : Nat → List Byte → List (Fin 64 × Fin 32)
  | _, [] => []
  | r, row :: rows => rowCells bx by' r row ++ spriteCells bx by' (r + 1) rows

theorem drawRow_eq_foldl (bx by' : Byte) (r : Nat) (row : Byte) (d : Drawing) :
    drawRow bx by' r row d = (rowCells bx by' r row).foldl toggle d := by
  unfold drawRow rowCells
  generalize [0, 1, 2, 3, 4, 5, 6, 7] = cols
  induction cols generalizing d with
  | nil => rfl
  | cons col cols ih =>
    simp only [List.foldl_cons, List.filter_cons, drawPixel]
    split
    · rw [ih]
      rfl
    · exact ih d

theorem drawRows_eq_foldl (bx by' : Byte) (r : Nat) (rows : List Byte) (d : Drawing) :
    drawRows bx by' r rows d = (spriteCells bx by' r rows).foldl toggle d := by
  induction rows generalizing r d with
  | nil => rfl
  | cons row rows ih => simp only [drawRows, spriteCells, List.foldl_append, ih, drawRow_eq_foldl]

/-- A cell after a list of distinct cells is toggled. -/
theorem get_foldl_toggle (ps : List (Fin 64 × Fin 32)) (hp : ps.Nodup) (d : Drawing) (c : Fin 64) (r : Fin 32) :
    Framebuffer.get (ps.foldl toggle d).1 c r =
      if (c, r) ∈ ps then !Framebuffer.get d.1 c r else Framebuffer.get d.1 c r := by
  induction ps generalizing d with
  | nil => simp
  | cons p ps ih =>
    obtain ⟨hn, hp⟩ := List.nodup_cons.1 hp
    simp only [List.foldl_cons, ih hp, toggle, Framebuffer.get_flip, List.mem_cons]
    by_cases h : c = p.1 ∧ r = p.2
    · simp [hn, h.1, h.2]
    · have : (c, r) ≠ p := fun e => h ⟨congrArg Prod.fst e, congrArg Prod.snd e⟩
      simp [this, h]

/-- The collision flag after a list of distinct cells is toggled. -/
theorem hit_foldl_toggle (ps : List (Fin 64 × Fin 32)) (hp : ps.Nodup) (d : Drawing) :
    (ps.foldl toggle d).2 = (d.2 || ps.any fun p => Framebuffer.get d.1 p.1 p.2) := by
  induction ps generalizing d with
  | nil => simp
  | cons p ps ih =>
    obtain ⟨hn, hp⟩ := List.nodup_cons.1 hp
    rw [List.foldl_cons, ih hp, List.any_cons, ← Bool.or_assoc]
    congr 1
    rw [Bool.eq_iff_iff, List.any_eq_true, List.any_eq_true]
    refine exists_congr fun q => and_congr_right fun hq => ?_
    have : ¬ (q.1 = p.1 ∧ q.2 = p.2) := fun e => hn (by rwa [← Prod.ext e.1 e.2])
    simp [toggle, Framebuffer.get_flip, this]

theorem mem_rowCells {bx by' : Byte} {r : Nat} {row : Byte} {p : Fin 64 × Fin 32} :
    p ∈ rowCells bx by' r row ↔
      ∃ col, col < 8 ∧ row.getLsbD (7 - col) = true ∧ p = (pixelColumn bx col, pixelRow by' r) := by
  simp only [rowCells, List.mem_map, List.mem_filter]
  constructor
  · rintro ⟨col, ⟨hc, hb⟩, rfl⟩
    exact ⟨col, by simp at hc; omega, hb, rfl⟩
  · rintro ⟨col, hc, hb, rfl⟩
    exact ⟨col, ⟨by simp; omega, hb⟩, rfl⟩

theorem mem_spriteCells {bx by' : Byte} {r : Nat} {rows : List Byte} {p : Fin 64 × Fin 32} :
    p ∈ spriteCells bx by' r rows ↔
      ∃ k, ∃ h : k < rows.length, p ∈ rowCells bx by' (r + k) rows[k] := by
  induction rows generalizing r with
  | nil => simp [spriteCells]
  | cons row rows ih =>
    simp only [spriteCells, List.mem_append, ih]
    constructor
    · rintro (h | ⟨k, hk, h⟩)
      · exact ⟨0, by simp, by simpa using h⟩
      · exact ⟨k + 1, by simpa using hk, by simpa [Nat.add_assoc, Nat.add_comm 1 k] using h⟩
    · rintro ⟨k, hk, h⟩
      cases k with
      | zero => exact Or.inl (by simpa using h)
      | succ k =>
        exact Or.inr ⟨k, by simpa using hk, by simpa [Nat.add_assoc, Nat.add_comm 1 k] using h⟩

/-- The eight column offsets are distinct modulo 64 (43_display.md R184). -/
theorem pixelColumn_inj {bx : Byte} {i j : Nat} (hi : i < 8) (hj : j < 8)
    (h : pixelColumn bx i = pixelColumn bx j) : i = j := by
  have := congrArg Fin.val h
  simp only [pixelColumn, Fin.ofNat] at this
  omega

/-- At most 32 row offsets are distinct modulo 32 (43_display.md R184). -/
theorem pixelRow_inj {by' : Byte} {i j : Nat} (hi : i < j + 32) (hj : j < i + 32)
    (h : pixelRow by' i = pixelRow by' j) : i = j := by
  have := congrArg Fin.val h
  simp only [pixelRow, Fin.ofNat] at this
  omega

theorem nodup_rowCells (bx by' : Byte) (r : Nat) (row : Byte) : (rowCells bx by' r row).Nodup := by
  unfold rowCells
  refine List.Nodup.map_on (fun i hi j hj h => ?_) (List.Nodup.filter _ (by decide))
  have hi := List.mem_of_mem_filter hi
  have hj := List.mem_of_mem_filter hj
  simp only [List.mem_cons, List.not_mem_nil, or_false] at hi hj
  exact pixelColumn_inj (by omega) (by omega) (congrArg Prod.fst h)

/-- Every cell is touched at most once per draw (43_display.md R184). -/
theorem nodup_spriteCells (bx by' : Byte) (r : Nat) (rows : List Byte) (h : rows.length ≤ 32) :
    (spriteCells bx by' r rows).Nodup := by
  induction rows generalizing r with
  | nil => simp [spriteCells]
  | cons row rows ih =>
    simp only [List.length_cons] at h
    refine List.Nodup.append (nodup_rowCells bx by' r row) (ih _ (by omega)) fun p hp hq => ?_
    obtain ⟨_, _, _, rfl⟩ := mem_rowCells.1 hp
    obtain ⟨k, hk, hq⟩ := mem_spriteCells.1 hq
    obtain ⟨_, _, _, he⟩ := mem_rowCells.1 hq
    have := pixelRow_inj (i := r) (j := r + 1 + k) (by omega) (by omega) (congrArg Prod.snd he)
    omega

/-- A cell after a sprite is drawn: toggled if a set bit lands on it. -/
theorem get_drawRows (bx by' : Byte) (rows : List Byte) (h : rows.length ≤ 32) (d : Drawing) (c : Fin 64) (r : Fin 32) :
    Framebuffer.get (drawRows bx by' 0 rows d).1 c r =
      if (c, r) ∈ spriteCells bx by' 0 rows then !Framebuffer.get d.1 c r else Framebuffer.get d.1 c r := by
  rw [drawRows_eq_foldl]
  exact get_foldl_toggle _ (nodup_spriteCells bx by' 0 rows h) d c r

/-- The collision flag after a sprite is drawn: a set bit landed on a cell that was 1. -/
theorem hit_drawRows (bx by' : Byte) (rows : List Byte) (h : rows.length ≤ 32) (f : Framebuffer) :
    (drawRows bx by' 0 rows (f, false)).2 = true ↔
      ∃ c r, (c, r) ∈ spriteCells bx by' 0 rows ∧ Framebuffer.get f c r = true := by
  rw [drawRows_eq_foldl, hit_foldl_toggle _ (nodup_spriteCells bx by' 0 rows h)]
  simp only [Bool.false_or, List.any_eq_true]
  constructor
  · rintro ⟨p, hp, hg⟩
    exact ⟨p.1, p.2, hp, hg⟩
  · rintro ⟨c, r, hp, hg⟩
    exact ⟨(c, r), hp, hg⟩

end Sys2Proof.Machine
end

