-- ==== Sys2Proof/Laws/Frame.lean ====
section
/-!
SUPPORT. Frames, update by update: each update of the state stays within a footprint that names what it writes.
-/

namespace Sys2Proof.Machine

variable {f : Footprint} {s t : State}

theorem Frame.refl (f : Footprint) (s : State) : Frame f s s where
  regs _ _ := rfl
  index _ := rfl
  stack _ := ⟨rfl, rfl⟩
  delay _ := rfl
  sound _ := rfl
  keys _ := rfl
  screen _ _ _ := rfl
  faultReg _ := rfl
  waitReg _ := rfl
  mem _ _ := rfl
  draws _ := rfl
  font := rfl
  keyWaitMode := rfl

theorem Frame.setPc (h : Frame f s t) (a : Word) : Frame f s (t.setPc a) := { h with }

theorem Frame.advance (h : Frame f s t) : Frame f s t.advance := h.setPc _

theorem Frame.skipIf (h : Frame f s t) (c : Bool) : Frame f s (t.skipIf c) := h.setPc _

theorem Frame.writeV (h : Frame f s t) {r : RegNo} (hr : r ∈ f.regs) (b : Byte) : Frame f s (t.writeV r b) :=
  { h with
    regs := fun q hq => by
      have hne : q ≠ r := fun e => hq (e ▸ hr)
      rw [State.readV_writeV, if_neg hne]
      exact h.regs q hq }

theorem Frame.writeFlag (h : Frame f s t) (hr : flagReg ∈ f.regs) (c : Bool) : Frame f s (t.writeFlag c) :=
  h.writeV hr _

theorem Frame.writeResultFlag (h : Frame f s t) {x : RegNo} (hx : x ∈ f.regs) (hr : flagReg ∈ f.regs) (b : Byte)
    (c : Bool) : Frame f s (t.writeResultFlag x b c) :=
  (h.writeV hx b).writeFlag hr c

theorem Frame.writeRegBlock (h : Frame f s t) (k : Nat) (bs : List Byte)
    (hr : ∀ r : RegNo, k ≤ r.val → r.val < k + bs.length → r ∈ f.regs) : Frame f s (t.writeRegBlock k bs) := by
  induction bs generalizing t k with
  | nil => exact h
  | cons b bs ih =>
    simp only [State.writeRegBlock]
    split
    · refine ih (h.writeV (hr _ (by simp) (by simp)) b) (k + 1) fun r hk hl => hr r (by omega) ?_
      simp only [List.length_cons]
      omega
    · exact h

theorem Frame.setI (h : Frame f s t) (hf : f.index = true) (a : Word) : Frame f s (t.setI a) :=
  { h with index := fun e => absurd (hf.symm.trans e) (by decide) }

theorem Frame.setDT (h : Frame f s t) (hf : f.delay = true) (b : Byte) : Frame f s (t.setDT b) :=
  { h with delay := fun e => absurd (hf.symm.trans e) (by decide) }

theorem Frame.setST (h : Frame f s t) (hf : f.sound = true) (b : Byte) : Frame f s (t.setST b) :=
  { h with sound := fun e => absurd (hf.symm.trans e) (by decide) }

theorem Frame.tick (h : Frame f s t) (hd : f.delay = true) (hs : f.sound = true) : Frame f s t.tick :=
  { h with
    delay := fun e => absurd (hd.symm.trans e) (by decide)
    sound := fun e => absurd (hs.symm.trans e) (by decide) }

theorem Frame.setWait (h : Frame f s t) (hf : f.waitReg = true) (w : Option RegNo) : Frame f s (t.setWait w) :=
  { h with waitReg := fun e => absurd (hf.symm.trans e) (by decide) }

theorem Frame.setFb (h : Frame f s t) (hf : f.screen = true) (g : Framebuffer) : Frame f s (t.setFb g) :=
  { h with screen := fun e => absurd (hf.symm.trans e) (by decide) }

theorem Frame.setKeyFlag (h : Frame f s t) (hf : f.keys = true) (k : Fin 16) (p : Bool) :
    Frame f s (t.setKeyFlag k p) :=
  { h with keys := fun e => absurd (hf.symm.trans e) (by decide) }

theorem Frame.draw (h : Frame f s t) (hf : f.draws = true) : Frame f s t.draw.2 :=
  { h with draws := fun e => absurd (hf.symm.trans e) (by decide) }

theorem Frame.setStack (h : Frame f s t) (hf : f.stack = true) (k : Vector Word 16) (p : Fin 17) :
    Frame f s { t with stack := k, sp := p } :=
  { h with stack := fun e => absurd (hf.symm.trans e) (by decide) }

/-- A memory that reads as before outside the footprint's addresses. -/
theorem Frame.setMem (h : Frame f s t) (m : Memory)
    (hm : ∀ a, ¬ (f.memBase ≤ a ∧ a < f.memBase + f.memLen) → ({ t with mem := m } : State).readByte a = t.readByte a) :
    Frame f s { t with mem := m } :=
  { h with mem := fun a ha => (hm a ha).trans (h.mem a ha) }

end Sys2Proof.Machine
end

