-- ==== Sys2Proof/Laws/Exec.lean ====
section
/-!
SUPPORT. What executing an instruction can do, said once: it takes the fault of the table of 60_exceptions.md R242 and changes
nothing else, or it changes no more than its footprint and `pc`.
-/

namespace Sys2Proof.Machine

/-- What an instruction that does not fault may change besides `pc`. -/
def footprint (s : State) : Instr → Footprint
  | .cls => { screen := true }
  | .ret | .call _ => { stack := true }
  | .sys _ | .jp _ | .seImm _ _ | .sneImm _ _ | .seReg _ _ | .sneReg _ _ | .jpV0 _ | .skp _ | .sknp _ => {}
  | .ldImm x _ | .addImm x _ | .ldReg x _ | .orReg x _ | .andReg x _ | .xorReg x _ | .ldVxDt x => { regs := [x] }
  | .addReg x _ | .subReg x _ | .shr x _ | .subnReg x _ | .shl x _ => { regs := [x, flagReg] }
  | .ldI _ | .addI _ | .ldF _ => { index := true }
  | .rnd x _ => { regs := [x], draws := true }
  | .drw _ _ _ => { regs := [flagReg], screen := true }
  | .ldVxK _ => { waitReg := s.keyWaitMode == .wait }
  | .ldDtVx _ => { delay := true }
  | .ldStVx _ => { sound := true }
  | .ldB _ => { memBase := s.i.toNat, memLen := 3 }
  | .storeRegs x => { memBase := s.i.toNat, memLen := x.val + 1 }
  | .loadRegs x => { regs := (List.finRange 16).filter fun k => k ≤ x }

theorem raise_range_eq (s : State) (code : FaultCode) (i : Instr) (n : Nat) (h : 0 < n ∧ 4096 < s.i.toNat + n) :
    some (s.raiseAt code i (some (max s.memBase 4096))) =
      (blockFault code s (encode i) n).map fun r => { s with fault := some r } := by
  simp [blockFault, h, State.raiseAt, State.raise, rangeFault, State.memBase]

/-- A block read of an instruction: MemReadRange, or every byte. -/
theorem memReads_blockFault (s : State) (i : Instr) (n : Nat) :
    (∃ r, blockFault .memReadRange s (encode i) n = some r ∧ ∃ a, s.memReads s.memBase n = .error a ∧
      s.raiseAt .memReadRange i (some a) = { s with fault := some r }) ∨
    (blockFault .memReadRange s (encode i) n = none ∧ (n = 0 ∨ s.i.toNat + n ≤ 4096) ∧
      s.memReads s.memBase n = .ok ((List.range n).map fun k => s.readByte (s.i.toNat + k))) := by
  by_cases h : 0 < n ∧ 4096 < s.i.toNat + n
  · refine Or.inl ⟨rangeFault .memReadRange s (encode i), by simp [blockFault, h], max s.i.toNat 4096, ?_, rfl⟩
    rw [State.memReads_eq, State.memBase, if_neg (by omega)]
  · refine Or.inr ⟨by simp only [blockFault, if_neg h], by omega, ?_⟩
    rw [State.memReads_eq, State.memBase, if_pos (by omega)]

/-- A block write of an instruction: MemWriteRange, or a memory in which every byte landed. -/
theorem memWrites_blockFault (s : State) (i : Instr) (bs : List Byte) (hb : bs ≠ []) :
    (∃ r, blockFault .memWriteRange s (encode i) bs.length = some r ∧ ∃ a, s.memWrites s.memBase bs = .error a ∧
      s.raiseAt .memWriteRange i (some a) = { s with fault := some r }) ∨
    (blockFault .memWriteRange s (encode i) bs.length = none ∧ s.i.toNat + bs.length ≤ 4096 ∧
      ∃ m, s.memWrites s.memBase bs = .ok { s with mem := m } ∧
        (∀ q, ({ s with mem := m } : State).readByte q =
          if s.i.toNat ≤ q then (bs[q - s.i.toNat]?).getD (s.readByte q) else s.readByte q) ∧
        (Memory.wf s.font s.mem → Memory.wf s.font m)) := by
  have hl : 0 < bs.length := List.length_pos_iff.2 hb
  by_cases h : 4096 < s.i.toNat + bs.length
  · refine Or.inl ⟨rangeFault .memWriteRange s (encode i), by simp [blockFault, h, hl], max s.i.toNat 4096, ?_, rfl⟩
    exact State.memWrites_error s _ bs hb h
  · refine Or.inr ⟨by simp only [blockFault, h, and_false, if_false], by omega, ?_⟩
    exact State.memWrites_ok s s.i.toNat bs (by omega)

/-- A block write stays within its bytes. -/
theorem Frame.of_block {s : State} {m : Memory} {bs : List Byte} {n : Nat} (hn : n = bs.length)
    (h : ∀ q, ({ s with mem := m } : State).readByte q =
      if s.i.toNat ≤ q then (bs[q - s.i.toNat]?).getD (s.readByte q) else s.readByte q) :
    Frame { memBase := s.i.toNat, memLen := n } s { s with mem := m } := by
  refine (Frame.refl _ s).setMem m fun a ha => ?_
  rw [h a]
  split
  · rw [List.getElem?_eq_none (by simp only at ha; omega)]
    rfl
  · rfl

/-- Executing an instruction answers a next state: the fault of the table and nothing else, or no more than the
instruction's footprint and `pc`. -/
theorem exec_cases (i : Instr) (s : State) :
    (∃ r, instrFault s (encode i) i = some r ∧ exec i s = .next { s with fault := some r }) ∨
    (instrFault s (encode i) i = none ∧ ∃ t, exec i s = .next t ∧ Frame (footprint s i) s t) := by
  cases i with
  | cls => exact .inr ⟨rfl, _, rfl, ((Frame.refl _ s).setFb rfl _).advance⟩
  | ret =>
    by_cases h : s.sp.val = 0
    · exact .inl ⟨_, by simp only [instrFault, if_pos h]; rfl, by simp only [exec, execRet, State.pop_of_empty s h]; rfl⟩
    · exact .inr ⟨by simp only [instrFault, if_neg h], _, by simp only [exec, execRet, State.pop_of_pos s h]; rfl,
        ((Frame.refl _ s).setStack rfl s.stack _).setPc _⟩
  | call nnn =>
    by_cases h : s.sp.val = 16
    · exact .inl ⟨_, by simp only [instrFault, if_pos h]; rfl, by simp only [exec, execCall, State.push_of_full s _ h]; rfl⟩
    · exact .inr ⟨by simp only [instrFault, if_neg h], _,
        by simp only [exec, execCall, State.push_of_lt s s.pc (show s.sp.val < 16 by omega)]; rfl,
        ((Frame.refl _ s).setStack rfl _ _).setPc _⟩
  | sys | jp | jpV0 => exact .inr ⟨rfl, _, rfl, (Frame.refl _ s).setPc _⟩
  | seImm | sneImm | seReg | sneReg | skp | sknp => exact .inr ⟨rfl, _, rfl, (Frame.refl _ s).skipIf _⟩
  | ldImm | addImm | ldReg | orReg | andReg | xorReg | ldVxDt =>
    exact .inr ⟨rfl, _, rfl, ((Frame.refl _ s).writeV (by simp [footprint]) _).advance⟩
  | addReg | subReg | shr | subnReg | shl =>
    exact .inr ⟨rfl, _, rfl,
      ((Frame.refl _ s).writeResultFlag (by simp [footprint]) (by simp [footprint]) _ _).advance⟩
  | ldI | addI | ldF => exact .inr ⟨rfl, _, rfl, ((Frame.refl _ s).setI rfl _).advance⟩
  | rnd x kk => exact .inr ⟨rfl, _, rfl, (((Frame.refl _ s).draw rfl).writeV (by simp [footprint]) _).advance⟩
  | ldDtVx => exact .inr ⟨rfl, _, rfl, ((Frame.refl _ s).setDT rfl _).advance⟩
  | ldStVx => exact .inr ⟨rfl, _, rfl, ((Frame.refl _ s).setST rfl _).advance⟩
  | ldVxK x =>
    cases h : s.keyWaitMode with
    | noop => exact .inr ⟨rfl, s.advance, by simp only [exec, execLdVxK, h], (Frame.refl _ s).advance⟩
    | wait =>
      exact .inr ⟨rfl, (s.setWait (some x)).advance, by simp only [exec, execLdVxK, h],
        ((Frame.refl _ s).setWait (by simp [footprint, h]) _).advance⟩
  | drw x y n =>
    rcases memReads_blockFault s (.drw x y n) n.toNat with ⟨r, hr, a, ha, he⟩ | ⟨hn, _, hb⟩
    · exact .inl ⟨r, hr, by simp only [exec, execDrw, ha, he]⟩
    · exact .inr ⟨hn, _, by simp only [exec, execDrw, hb]; rfl,
        (((Frame.refl _ s).setFb rfl _).writeFlag (by simp [footprint]) _).advance⟩
  | ldB x =>
    rcases memWrites_blockFault s (.ldB x) (bcdDigits (s.readV x)) (by simp [bcdDigits]) with
      ⟨r, hr, a, ha, he⟩ | ⟨hn, _, m, hm, hq, _⟩
    · exact .inl ⟨r, hr, by simp only [exec, execLdB, ha, he]⟩
    · exact .inr ⟨hn, _, by simp only [exec, execLdB, hm], (Frame.of_block rfl hq).advance⟩
  | storeRegs x =>
    have hl := State.regBlock_length s x
    rcases memWrites_blockFault s (.storeRegs x) (s.regBlock x) (by intro h; simp [h] at hl) with
      ⟨r, hr, a, ha, he⟩ | ⟨hn, _, m, hm, hq, _⟩
    · rw [hl] at hr
      exact .inl ⟨r, hr, by simp only [exec, execStoreRegs, ha, he]⟩
    · rw [hl] at hn
      exact .inr ⟨hn, _, by simp only [exec, execStoreRegs, hm], (Frame.of_block hl.symm hq).advance⟩
  | loadRegs x =>
    rcases memReads_blockFault s (.loadRegs x) (x.val + 1) with ⟨r, hr, a, ha, he⟩ | ⟨hn, _, hb⟩
    · exact .inl ⟨r, hr, by simp only [exec, execLoadRegs, blockLen, ha, he]⟩
    · refine .inr ⟨hn, _, by simp only [exec, execLoadRegs, blockLen, hb]; rfl, Frame.advance ?_⟩
      refine (Frame.refl _ s).writeRegBlock 0 _ fun r _ hlt => ?_
      simp only [List.length_map, List.length_range] at hlt
      simp only [footprint, List.mem_filter, List.mem_finRange, true_and, decide_eq_true_eq, Fin.le_def]
      omega

end Sys2Proof.Machine
end

