-- ==== Sys2Proof/Laws/PerInstr.lean ====
section
/-!
SUPPORT. One lemma per instruction: its encoding matches its row of spec/opcode_table.json, `word AND mask = match`.
-/

namespace Sys2Proof.Laws.TableMatch

/-- The row of spec/opcode_table.json an instruction stands for: mask and match. -/
def row : Instr → Word × Word
  | .cls => (0xFFFF, 0x00E0)
  | .ret => (0xFFFF, 0x00EE)
  | .sys _ => (0xF000, 0x0000)
  | .jp _ => (0xF000, 0x1000)
  | .call _ => (0xF000, 0x2000)
  | .seImm _ _ => (0xF000, 0x3000)
  | .sneImm _ _ => (0xF000, 0x4000)
  | .seReg _ _ => (0xF000, 0x5000)
  | .ldImm _ _ => (0xF000, 0x6000)
  | .addImm _ _ => (0xF000, 0x7000)
  | .ldReg _ _ => (0xF00F, 0x8000)
  | .orReg _ _ => (0xF00F, 0x8001)
  | .andReg _ _ => (0xF00F, 0x8002)
  | .xorReg _ _ => (0xF00F, 0x8003)
  | .addReg _ _ => (0xF00F, 0x8004)
  | .subReg _ _ => (0xF00F, 0x8005)
  | .shr _ _ => (0xF00F, 0x8006)
  | .subnReg _ _ => (0xF00F, 0x8007)
  | .shl _ _ => (0xF00F, 0x800E)
  | .sneReg _ _ => (0xF000, 0x9000)
  | .ldI _ => (0xF000, 0xA000)
  | .jpV0 _ => (0xF000, 0xB000)
  | .rnd _ _ => (0xF000, 0xC000)
  | .drw _ _ _ => (0xF000, 0xD000)
  | .skp _ => (0xF0FF, 0xE09E)
  | .sknp _ => (0xF0FF, 0xE0A1)
  | .ldVxDt _ => (0xF0FF, 0xF007)
  | .ldVxK _ => (0xF0FF, 0xF00A)
  | .ldDtVx _ => (0xF0FF, 0xF015)
  | .ldStVx _ => (0xF0FF, 0xF018)
  | .addI _ => (0xF0FF, 0xF01E)
  | .ldF _ => (0xF0FF, 0xF029)
  | .ldB _ => (0xF0FF, 0xF033)
  | .storeRegs _ => (0xF0FF, 0xF055)
  | .loadRegs _ => (0xF0FF, 0xF065)

/-- The encoding of an instruction matches its row. -/
def Statement (i : Instr) : Prop := encode i &&& (row i).1 = (row i).2

/-- Masking the two bytes of a word. -/
theorem and_bytes (a b c d : Byte) : (a ++ b : Word) &&& (c ++ d : Word) = ((a &&& c) ++ (b &&& d) : Word) :=
  BitVec.and_append (x₁ := a) (x₂ := c) (y₁ := b) (y₂ := d)

/-- Masking the two nibbles of a byte. -/
theorem and_nibbles (a b c d : BitVec 4) : (a ++ b : Byte) &&& (c ++ d : Byte) = ((a &&& c) ++ (b &&& d) : Byte) :=
  BitVec.and_append (x₁ := a) (x₂ := c) (y₁ := b) (y₂ := d)

theorem and_ones4 (a : BitVec 4) : a &&& 0xF#4 = a := BitVec.and_allOnes

theorem and_ones8 (a : Byte) : a &&& 0xFF#8 = a := BitVec.and_allOnes

/-- The mask of a word `g nnn` keeps `g`. -/
theorem mask_encodeNNN (g : BitVec 4) (nnn : BitVec 12) : encodeNNN g nnn &&& 0xF000#16 = (g ++ 0#12 : Word) := by
  refine (BitVec.and_append (x₁ := g) (y₁ := nnn) (x₂ := 0xF#4) (y₂ := 0#12)).trans ?_
  rw [and_ones4, BitVec.and_zero]

/-- The mask of a word `g x kk` whose `kk` is an operand keeps `g`. -/
theorem mask_encodeXKK (g : BitVec 4) (x : RegNo) (kk : Byte) :
    encodeXKK g x kk &&& 0xF000#16 = ((g ++ 0#4 : Byte) ++ 0#8 : Word) := by
  refine (and_bytes (g ++ regField x : Byte) kk (0xF#4 ++ 0#4 : Byte) 0#8).trans ?_
  rw [and_nibbles, and_ones4, BitVec.and_zero, BitVec.and_zero]

/-- The mask of a word `g x kk` whose `kk` is the selector keeps `g` and `kk`. -/
theorem mask_encodeXSel (g : BitVec 4) (x : RegNo) (kk : Byte) :
    encodeXKK g x kk &&& 0xF0FF#16 = ((g ++ 0#4 : Byte) ++ kk : Word) := by
  refine (and_bytes (g ++ regField x : Byte) kk (0xF#4 ++ 0#4 : Byte) 0xFF#8).trans ?_
  rw [and_nibbles, and_ones4, BitVec.and_zero, and_ones8]

/-- The mask of a word `g x y n` whose `n` is no selector keeps `g`. -/
theorem mask_encodeXYN (g : BitVec 4) (x y : RegNo) (n : BitVec 4) :
    encodeXYN g x y n &&& 0xF000#16 = ((g ++ 0#4 : Byte) ++ 0#8 : Word) :=
  mask_encodeXKK g x (regField y ++ n : Byte)

/-- The mask of a word `g x y n` whose `n` is the selector keeps `g` and `n`. -/
theorem mask_encodeXYSel (g : BitVec 4) (x y : RegNo) (n : BitVec 4) :
    encodeXYN g x y n &&& 0xF00F#16 = ((g ++ 0#4 : Byte) ++ (0#4 ++ n : Byte) : Word) := by
  refine (and_bytes (g ++ regField x : Byte) (regField y ++ n : Byte) (0xF#4 ++ 0#4 : Byte) (0#4 ++ 0xF#4 : Byte)).trans ?_
  rw [and_nibbles, and_nibbles, and_ones4, and_ones4, BitVec.and_zero, BitVec.and_zero]

theorem cls : Statement (.cls) := rfl
theorem ret : Statement (.ret) := rfl
theorem sys (nnn : BitVec 12) : Statement (.sys nnn) := mask_encodeNNN _ nnn
theorem jp (nnn : BitVec 12) : Statement (.jp nnn) := mask_encodeNNN _ nnn
theorem call (nnn : BitVec 12) : Statement (.call nnn) := mask_encodeNNN _ nnn
theorem seImm (x : RegNo) (kk : Byte) : Statement (.seImm x kk) := mask_encodeXKK _ x kk
theorem sneImm (x : RegNo) (kk : Byte) : Statement (.sneImm x kk) := mask_encodeXKK _ x kk
theorem seReg (x y : RegNo) : Statement (.seReg x y) := mask_encodeXYN _ x y _
theorem ldImm (x : RegNo) (kk : Byte) : Statement (.ldImm x kk) := mask_encodeXKK _ x kk
theorem addImm (x : RegNo) (kk : Byte) : Statement (.addImm x kk) := mask_encodeXKK _ x kk
theorem ldReg (x y : RegNo) : Statement (.ldReg x y) := mask_encodeXYSel _ x y _
theorem orReg (x y : RegNo) : Statement (.orReg x y) := mask_encodeXYSel _ x y _
theorem andReg (x y : RegNo) : Statement (.andReg x y) := mask_encodeXYSel _ x y _
theorem xorReg (x y : RegNo) : Statement (.xorReg x y) := mask_encodeXYSel _ x y _
theorem addReg (x y : RegNo) : Statement (.addReg x y) := mask_encodeXYSel _ x y _
theorem subReg (x y : RegNo) : Statement (.subReg x y) := mask_encodeXYSel _ x y _
theorem shr (x y : RegNo) : Statement (.shr x y) := mask_encodeXYSel _ x y _
theorem subnReg (x y : RegNo) : Statement (.subnReg x y) := mask_encodeXYSel _ x y _
theorem shl (x y : RegNo) : Statement (.shl x y) := mask_encodeXYSel _ x y _
theorem sneReg (x y : RegNo) : Statement (.sneReg x y) := mask_encodeXYN _ x y _
theorem ldI (nnn : BitVec 12) : Statement (.ldI nnn) := mask_encodeNNN _ nnn
theorem jpV0 (nnn : BitVec 12) : Statement (.jpV0 nnn) := mask_encodeNNN _ nnn
theorem rnd (x : RegNo) (kk : Byte) : Statement (.rnd x kk) := mask_encodeXKK _ x kk
theorem drw (x y : RegNo) (n : BitVec 4) : Statement (.drw x y n) := mask_encodeXYN _ x y n
theorem skp (x : RegNo) : Statement (.skp x) := mask_encodeXSel _ x _
theorem sknp (x : RegNo) : Statement (.sknp x) := mask_encodeXSel _ x _
theorem ldVxDt (x : RegNo) : Statement (.ldVxDt x) := mask_encodeXSel _ x _
theorem ldVxK (x : RegNo) : Statement (.ldVxK x) := mask_encodeXSel _ x _
theorem ldDtVx (x : RegNo) : Statement (.ldDtVx x) := mask_encodeXSel _ x _
theorem ldStVx (x : RegNo) : Statement (.ldStVx x) := mask_encodeXSel _ x _
theorem addI (x : RegNo) : Statement (.addI x) := mask_encodeXSel _ x _
theorem ldF (x : RegNo) : Statement (.ldF x) := mask_encodeXSel _ x _
theorem ldB (x : RegNo) : Statement (.ldB x) := mask_encodeXSel _ x _
theorem storeRegs (x : RegNo) : Statement (.storeRegs x) := mask_encodeXSel _ x _
theorem loadRegs (x : RegNo) : Statement (.loadRegs x) := mask_encodeXSel _ x _

end Sys2Proof.Laws.TableMatch
end

