-- ==== Sys2Proof/Laws/Step.lean ====
section
/-!
SUPPORT. What a step can do, said once (30_encoding.md R92).
-/

namespace Sys2Proof.Machine

/-- A word that a step fetches is what the machine's fetch reads. -/
theorem Fetches.fetch {s : State} {op : Word} (h : Fetches s op) : s.fetch = .ok op := by
  rw [State.fetch_ok s h.in_range]
  congr 1
  apply BitVec.eq_of_toNat_eq
  rw [wordOfBytes_toNat, h.bytes]

/-- A core neither faulted nor held, with both bytes in memory, fetches a word. -/
theorem exists_fetches {s : State} (hf : s.fault = none) (hw : s.wait = none) (hp : s.pc.toNat + 1 < 4096) :
    ∃ op, Fetches s op :=
  ⟨_, hf, hw, hp, wordOfBytes_toNat _ _⟩

/-- The word a step fetches is one. -/
theorem Fetches.unique {s : State} {op op' : Word} (h : Fetches s op) (h' : Fetches s op') : op = op' :=
  Except.ok.inj (h.fetch.symm.trans h'.fetch)

/-- The five courses of a step: faulted, held, FetchRange, an ignored word, or an instruction and the end of its step. -/
theorem step_cases (s : State) :
    (s.fault.isSome = true ∧ step s = .next s) ∨
    (s.fault = none ∧ s.wait.isSome = true ∧ step s = .next s.tick) ∨
    (s.fault = none ∧ s.wait = none ∧ 4096 ≤ s.pc.toNat + 1 ∧
      step s = .next (s.raise .fetchRange none (some (max s.pc.toNat 4096)))) ∨
    (∃ op u, Fetches s op ∧ decode op = .error u ∧ step s = .next (ignoredWord s)) ∨
    (∃ op i, Fetches s op ∧ decode op = .ok i ∧
      step s = match exec i s with
        | .next t => .next (finish t)
        | .fault r => .fault r
        | .refused r => .refused r) := by
  by_cases hf : s.fault.isSome = true
  · exact Or.inl ⟨hf, by simp [step, issue, hf]⟩
  have hf' : s.fault = none := by simpa using hf
  by_cases hw : s.wait.isSome = true
  · exact Or.inr (Or.inl ⟨hf', hw, by simp [step, issue, hf, hw]⟩)
  have hw' : s.wait = none := by simpa using hw
  by_cases hp : s.pc.toNat + 1 < 4096
  · obtain ⟨op, ho⟩ := exists_fetches hf' hw' hp
    cases hd : decode op with
    | error u =>
      exact Or.inr (Or.inr (Or.inr (Or.inl ⟨op, u, ho, hd, by simp [step, issue, hf, hw, ho.fetch, hd]⟩)))
    | ok i =>
      exact Or.inr (Or.inr (Or.inr (Or.inr ⟨op, i, ho, hd, by simp [step, issue, hf, hw, ho.fetch, hd] <;> rfl⟩)))
  · have hp' : 4096 ≤ s.pc.toNat + 1 := by omega
    exact Or.inr (Or.inr (Or.inl ⟨hf', hw', hp', by simp [step, issue, hf, hw, State.fetch_error s hp']⟩))

/-! ### The end of a step -/

theorem finish_of_fault {s : State} (h : s.fault.isSome = true) : finish s = s := by simp [finish, h]

theorem finish_of_no_fault {s : State} (h : s.fault = none) : finish s = s.tick := by simp [finish, h]

/-- The end of a step changes the timers alone. -/
theorem finish_eq (s : State) : finish s = { s with dt := (finish s).dt, st := (finish s).st } := by
  unfold finish
  split <;> rfl

end Sys2Proof.Machine
end

