-- ==== Sys2Proof/Laws/Run.lean ====
section
/-!
SUPPORT. Sequences of host operations, one operation at a time, and what a single operation can do to the FAULT register while
a program runs (60_exceptions.md R246, R267).
-/

namespace Sys2Proof.Machine

@[simp] theorem State.applyAll_nil (s : State) : s.applyAll [] = s := rfl

@[simp] theorem State.applyAll_cons (s : State) (op : HostOp) (ops : List HostOp) :
    s.applyAll (op :: ops) = (s.apply op).applyAll ops := rfl

theorem State.applyAll_append (s : State) (ops ops' : List HostOp) :
    s.applyAll (ops ++ ops') = (s.applyAll ops).applyAll ops' := List.foldl_append

@[simp] theorem State.states_nil (s : State) : s.states [] = [s] := rfl

@[simp] theorem State.states_cons (s : State) (op : HostOp) (ops : List HostOp) :
    s.states (op :: ops) = s :: (s.apply op).states ops := rfl

/-- A run goes on from what a reached state's operation leaves. -/
theorem Reached.apply {s : State} (h : Reached s) (op : HostOp) : Reached (s.apply op) := by
  obtain ⟨font, mode, ops, rfl⟩ := h
  exact ⟨font, mode, ops ++ [op], by rw [State.applyAll_append]; rfl⟩

/-- A successful load leaves FAULT clear. -/
theorem State.loadROM_fault (s : State) {bytes : List Byte} (h : bytes.length ≤ Config.maxRom) :
    (s.loadROM bytes).2.fault = none := by
  rw [State.loadROM, if_neg (Nat.not_lt.2 h)]
  rfl

/-- `setKey` does not write FAULT. -/
theorem State.setKey_fault (s : State) (index : Int) (pressed : Bool) : (s.setKey index pressed).2.fault = s.fault := by
  unfold State.setKey
  split
  · show (State.releaseWait _ _ _).fault = s.fault
    unfold State.releaseWait
    split <;> rfl
  · rfl

/-- While a program runs, an operation keeps a FAULT that is set, and sets one only as a step that returns `Fault`. -/
theorem State.apply_fault (s : State) {op : HostOp} (h : op.duringRun = true) :
    (s.apply op).fault = s.fault ∨ s.fault = none ∧ op = .step ∧ ∃ r, (s.apply op).fault = some r := by
  cases op with
  | step =>
    cases hs : s.fault with
    | none =>
      cases ht : (s.apply .step).fault with
      | none => exact .inl rfl
      | some r => exact .inr ⟨rfl, rfl, r, rfl⟩
    | some r =>
      have he : step s = .next s := by simp [step, issue, hs]
      exact .inl (by simp [State.apply, he, hs])
  | setKey index pressed => exact .inl (State.setKey_fault s index pressed)
  | getScreen => exact .inl rfl
  | reset => exact absurd h (by decide)
  | loadROM => exact absurd h (by simp [HostOp.duringRun])

end Sys2Proof.Machine
end

