-- ==== Sys2Proof/Tests/Slice0.lean ====
section
/-!
SUPPORT. The model's own tests. Words are written out from the encodings of 30_encoding.md R84; expected results are those of
spec/95_test_vectors.md, whose row each test names. The last part shows, for every statement that has hypotheses, a state and
operands that meet them.
-/

namespace Sys2Proof.Tests

open Sys2Proof Sys2Proof.Machine

/-! ### Helpers -/

/-- Some registers written, over the reset state. -/
def regs (l : List (RegNo × Byte)) : State := l.foldl (fun s p => s.writeV p.1 p.2) State.reset

/-- Some bytes written from an address on. -/
def poke (s : State) (a : Nat) (bs : List Byte) : State := s.writeImage a bs

/-- The word `op` at `pc`, about to be fetched. -/
def place (pc : Word) (op : Word) (s : State) : State := ({ s with pc := pc } : State).storeWord pc.toNat op

/-- The word `op` at 0x200, about to be fetched. -/
def at200 (op : Word) (s : State) : State := place 0x200#16 op s

/-- One step answers a next state of which `p` holds. -/
def after (s : State) (p : State → Bool) : Bool :=
  match step s with
  | .next t => p t
  | .fault _ => false
  | .refused _ => false

/-- Which cells of a framebuffer are set among the ones listed. -/
def lit (t : State) (cells : List (Fin 64 × Fin 32)) : List Bool := cells.map fun p => t.pixel p.1 p.2

/-- What `Fetches` asks, as a Bool. -/
def fetchesB (s : State) (op : Word) : Bool :=
  s.fault.isNone && s.wait.isNone && decide (s.pc.toNat + 1 < 4096) &&
    decide (op.toNat = (s.readByte s.pc.toNat).toNat * 256 + (s.readByte (s.pc.toNat + 1)).toNat)

theorem fetches_of {s : State} {op : Word} (h : fetchesB s op = true) : Fetches s op := by
  simp only [fetchesB, Bool.and_eq_true, Option.isNone_iff_eq_none, decide_eq_true_eq] at h
  exact ⟨h.1.1.1, h.1.1.2, h.1.2, h.2⟩

/-! ### Well-formedness -/

/-- 30_encoding.md R85: the word 0x00E0 is CLS, no SYS. -/
theorem test_sys_0E0_ill_formed : (Instr.sys 0x0E0#12).wellFormed = false := by decide

/-- 30_encoding.md R85: the word 0x00EE is RET, no SYS. -/
theorem test_sys_0EE_ill_formed : (Instr.sys 0x0EE#12).wellFormed = false := by decide

/-- DEC-4: 01E0 is group 0 and neither 00E0 nor 00EE. -/
theorem test_sys_1E0_well_formed : (Instr.sys 0x1E0#12).wellFormed = true := by decide

/-! ### Decoding, one word per constructor, bit by bit from R84 -/

theorem test_decode_cls : decode 0b0000000011100000#16 = .ok .cls := by rfl
theorem test_decode_ret : decode 0b0000000011101110#16 = .ok .ret := by rfl
theorem test_decode_sys : decode 0b0000000111100000#16 = .ok (.sys 0x1E0#12) := by rfl
theorem test_decode_jp : decode 0b0001001000110100#16 = .ok (.jp 0x234#12) := by rfl
theorem test_decode_call : decode 0b0010001000000100#16 = .ok (.call 0x204#12) := by rfl
theorem test_decode_seImm : decode 0b0011000100000111#16 = .ok (.seImm 1 0x07#8) := by rfl
theorem test_decode_sneImm : decode 0b0100000100001000#16 = .ok (.sneImm 1 0x08#8) := by rfl
theorem test_decode_seReg : decode 0b0101000100101111#16 = .ok (.seReg 1 2) := by rfl
theorem test_decode_ldImm : decode 0b0110101001000010#16 = .ok (.ldImm 10 0x42#8) := by rfl
theorem test_decode_addImm : decode 0b0111001100100000#16 = .ok (.addImm 3 0x20#8) := by rfl
theorem test_decode_ldReg : decode 0b1000000101010000#16 = .ok (.ldReg 1 5) := by rfl
theorem test_decode_orReg : decode 0b1000000000010001#16 = .ok (.orReg 0 1) := by rfl
theorem test_decode_andReg : decode 0b1000000000010010#16 = .ok (.andReg 0 1) := by rfl
theorem test_decode_xorReg : decode 0b1000000000010011#16 = .ok (.xorReg 0 1) := by rfl
theorem test_decode_addReg : decode 0b1000000011110100#16 = .ok (.addReg 0 15) := by rfl
theorem test_decode_subReg : decode 0b1000000000010101#16 = .ok (.subReg 0 1) := by rfl
theorem test_decode_shr : decode 0b1000001000110110#16 = .ok (.shr 2 3) := by rfl
theorem test_decode_subnReg : decode 0b1000000000010111#16 = .ok (.subnReg 0 1) := by rfl
theorem test_decode_shl : decode 0b1000001000001110#16 = .ok (.shl 2 0) := by rfl
theorem test_decode_sneReg : decode 0b1001000100100000#16 = .ok (.sneReg 1 2) := by rfl
theorem test_decode_ldI : decode 0b1010001011110000#16 = .ok (.ldI 0x2F0#12) := by rfl
theorem test_decode_jpV0 : decode 0b1011001100000000#16 = .ok (.jpV0 0x300#12) := by rfl
theorem test_decode_rnd : decode 0b1100001100001111#16 = .ok (.rnd 3 0x0F#8) := by rfl
theorem test_decode_drw : decode 0b1101000100100101#16 = .ok (.drw 1 2 5#4) := by rfl
theorem test_decode_skp : decode 0b1110000010011110#16 = .ok (.skp 0) := by rfl
theorem test_decode_sknp : decode 0b1110000010100001#16 = .ok (.sknp 0) := by rfl
theorem test_decode_ldVxDt : decode 0b1111001100000111#16 = .ok (.ldVxDt 3) := by rfl
theorem test_decode_ldVxK : decode 0b1111001100001010#16 = .ok (.ldVxK 3) := by rfl
theorem test_decode_ldDtVx : decode 0b1111000100010101#16 = .ok (.ldDtVx 1) := by rfl
theorem test_decode_ldStVx : decode 0b1111000100011000#16 = .ok (.ldStVx 1) := by rfl
theorem test_decode_addI : decode 0b1111010000011110#16 = .ok (.addI 4) := by rfl
theorem test_decode_ldF : decode 0b1111001000101001#16 = .ok (.ldF 2) := by rfl
theorem test_decode_ldB : decode 0b1111001100110011#16 = .ok (.ldB 3) := by rfl
theorem test_decode_storeRegs : decode 0b1111111101010101#16 = .ok (.storeRegs 15) := by rfl
theorem test_decode_loadRegs : decode 0b1111000101100101#16 = .ok (.loadRegs 1) := by rfl

/-- The unmapped words of DEC-1, DEC-2 and DEC-3 are refused by name. -/
theorem test_decode_unmapped :
    decode 0x800F#16 = .error (.group8 0xF#4) ∧ decode 0xE0FF#16 = .error (.groupE 0xFF#8) ∧
      decode 0xF0FF#16 = .error (.groupF 0xFF#8) := ⟨rfl, rfl, rfl⟩

/-- 20_memory.md R68: the byte at the lower address holds bits 15 to 8, and the rest of the bytes is left. -/
theorem test_decode_bytes :
    decodeBytes [0x6A#8, 0x42#8, 0x12#8] = some (.ok (.ldImm 10 0x42#8), [0x12#8]) := by rfl

/-! ### Loads, arithmetic, logic, shifts, random -/

/-- ALU-1. -/
theorem test_ldImm : after (at200 0x6A42 State.reset) (fun t => t.readV 10 == 0x42 && t.pc == 0x202) = true := by decide
/-- ALU-3: no carry flag. -/
theorem test_addImm_wraps :
    after (at200 0x7320 (regs [(3, 0xF0)])) (fun t => t.readV 3 == 0x10 && t.readV 15 == 0) = true := by decide
/-- ALU-4: VF is not written. -/
theorem test_addImm_keeps_vf :
    after (at200 0x7301 (regs [(3, 0xFF), (15, 5)])) (fun t => t.readV 3 == 0 && t.readV 15 == 5) = true := by decide
/-- ALU-5. -/
theorem test_ldReg : after (at200 0x8150 (regs [(5, 0x33)])) (fun t => t.readV 1 == 0x33 && t.readV 5 == 0x33) = true := by
  decide
/-- ALU-6: VF is not reset. -/
theorem test_orReg :
    after (at200 0x8011 (regs [(0, 0x0F), (1, 0xF0), (15, 1)])) (fun t => t.readV 0 == 0xFF && t.readV 15 == 1) = true := by
  decide
/-- ALU-7. -/
theorem test_andReg : after (at200 0x8012 (regs [(0, 0x3C), (1, 0x0F)])) (fun t => t.readV 0 == 0x0C) = true := by decide
/-- ALU-8: x = y. -/
theorem test_xorReg : after (at200 0x8003 (regs [(0, 0xAA)])) (fun t => t.readV 0 == 0) = true := by decide
/-- ALU-9: a sum of 255 has no carry. -/
theorem test_addReg_255 :
    after (at200 0x8014 (regs [(0, 0xFE), (1, 1)])) (fun t => t.readV 0 == 0xFF && t.readV 15 == 0) = true := by decide
/-- ALU-11: y = F reads the old VF. -/
theorem test_addReg_old_vf :
    after (at200 0x80F4 (regs [(0, 0x10), (15, 0xF0)])) (fun t => t.readV 0 == 0 && t.readV 15 == 1) = true := by decide
/-- L1-5: a borrow. -/
theorem test_subReg_borrow :
    after (at200 0x8015 (regs [(0, 1), (1, 2)])) (fun t => t.readV 0 == 0xFF && t.readV 15 == 0) = true := by decide
/-- ALU-14: equal operands do not borrow. -/
theorem test_subReg_equal :
    after (at200 0x8015 (regs [(0, 5), (1, 5)])) (fun t => t.readV 0 == 0 && t.readV 15 == 1) = true := by decide
/-- ALU-18: Vy is not used. -/
theorem test_shr_ignores_vy :
    after (at200 0x8236 (regs [(2, 4), (3, 0xFF)])) (fun t => t.readV 2 == 2 && t.readV 15 == 0) = true := by decide
/-- ALU-20: x = F, the flag after the result. -/
theorem test_shr_vf : after (at200 0x8F06 (regs [(15, 2)])) (fun t => t.readV 15 == 0) = true := by decide
/-- ALU-21: a borrow. -/
theorem test_subnReg_borrow :
    after (at200 0x8017 (regs [(0, 2), (1, 1)])) (fun t => t.readV 0 == 0xFF && t.readV 15 == 0) = true := by decide
/-- ALU-22. -/
theorem test_subnReg :
    after (at200 0x8017 (regs [(0, 1), (1, 0x10)])) (fun t => t.readV 0 == 0x0F && t.readV 15 == 1) = true := by decide
/-- ALU-24. -/
theorem test_shl : after (at200 0x820E (regs [(2, 0x81)])) (fun t => t.readV 2 == 2 && t.readV 15 == 1) = true := by decide
/-- ALU-25. -/
theorem test_shl_no_flag :
    after (at200 0x820E (regs [(2, 0x40)])) (fun t => t.readV 2 == 0x80 && t.readV 15 == 0) = true := by decide
/-- ALU-27. -/
theorem test_ldI : after (at200 0xA2F0 { State.reset with i := 0x123 }) (fun t => t.i == 0x2F0) = true := by decide
/-- ALU-28, for every draw: one draw, masked. -/
theorem test_rnd (s : State) : ∃ t, exec (.rnd 3 0x0F#8) s = .next t ∧ t.readV 3 = Config.rand s.draws &&& 0x0F#8 :=
  ⟨_, rfl, by simp [State.advance, State.setPc, State.readV, State.writeV]⟩

/-! ### Skips -/

/-- SKP-1. -/
theorem test_seImm_skips : after (at200 0x3107 (regs [(1, 7)])) (fun t => t.pc == 0x204) = true := by decide
/-- SKP-2. -/
theorem test_seImm_falls : after (at200 0x3108 (regs [(1, 7)])) (fun t => t.pc == 0x202) = true := by decide
/-- SKP-3. -/
theorem test_sneImm_skips : after (at200 0x4108 (regs [(1, 7)])) (fun t => t.pc == 0x204) = true := by decide
/-- SKP-4. -/
theorem test_sneImm_falls : after (at200 0x4107 (regs [(1, 7)])) (fun t => t.pc == 0x202) = true := by decide
/-- SKP-6: n is not read. -/
theorem test_seReg_skips : after (at200 0x512F (regs [(1, 0x33), (2, 0x33)])) (fun t => t.pc == 0x204) = true := by decide
/-- SKP-7. -/
theorem test_seReg_falls : after (at200 0x5120 (regs [(1, 0x33), (2, 0x34)])) (fun t => t.pc == 0x202) = true := by decide
/-- SKP-8. -/
theorem test_sneReg_skips : after (at200 0x9120 (regs [(1, 0x33), (2, 0x34)])) (fun t => t.pc == 0x204) = true := by decide
/-- SKP-9. -/
theorem test_sneReg_falls : after (at200 0x9110 (regs [(1, 0x33)])) (fun t => t.pc == 0x202) = true := by decide
/-- SKP-10. -/
theorem test_skp_pressed :
    after (at200 0xE09E ((regs [(0, 5)]).setKeyFlag 5 true)) (fun t => t.pc == 0x204) = true := by decide
/-- SKP-12: an index of 16 or more reads as not pressed. -/
theorem test_skp_index_21 :
    after (at200 0xE09E { regs [(0, 0x15)] with keys := Vector.replicate 16 true }) (fun t => t.pc == 0x202) = true := by
  decide
/-- SKP-14. -/
theorem test_sknp_pressed :
    after (at200 0xE0A1 ((regs [(0, 5)]).setKeyFlag 5 true)) (fun t => t.pc == 0x202) = true := by decide
/-- SKP-15. -/
theorem test_sknp_index_21 :
    after (at200 0xE0A1 { regs [(0, 0x15)] with keys := Vector.replicate 16 true }) (fun t => t.pc == 0x204) = true := by
  decide

/-! ### Control transfer -/

/-- CTL-1. -/
theorem test_sys : after (place 0x300 0x0123 State.reset) (fun t => t.pc == 0x302 && t.sp == 0) = true := by decide
/-- CTL-2. -/
theorem test_jp : after (at200 0x1234 State.reset) (fun t => t.pc == 0x234 && t.sp == 0) = true := by decide
/-- CTL-4: the last slot. -/
theorem test_call_last_slot :
    after (place 0x400 0x2600 { State.reset with sp := 15 })
      (fun t => t.pc == 0x600 && t.sp == 16 && t.stack[15] == 0x400) = true := by decide
/-- CTL-5: StackOverflow, no tick. -/
theorem test_call_overflow :
    after (place 0x400 0x2600 { State.reset with sp := 16, dt := 3 })
      (fun t => t.fault == some { code := .stackOverflow, pc := 0x400, op := some 0x2600, addr := none } &&
        t.pc == 0x400 && t.sp == 16 && t.dt == 3) = true := by decide
/-- CTL-6 (the corrected value of L1-3). -/
theorem test_ret :
    after (place 0x204 0x00EE { State.reset with sp := 1, stack := State.reset.stack.set 0 0x200 })
      (fun t => t.pc == 0x202 && t.sp == 0 && t.stack[0] == 0x200) = true := by decide
/-- CTL-7: StackUnderflow. -/
theorem test_ret_underflow :
    after (place 0x204 0x00EE State.reset)
      (fun t => t.fault == some { code := .stackUnderflow, pc := 0x204, op := some 0x00EE, addr := none }) = true := by
  decide
/-- CTL-8. -/
theorem test_jpV0 : after (at200 0xB300 (regs [(0, 4)])) (fun t => t.pc == 0x304) = true := by decide
/-- CTL-11: not masked. -/
theorem test_jpV0_highest : after (at200 0xBFFF (regs [(0, 0xFF)])) (fun t => t.pc == 0x10FE) = true := by decide

/-! ### Framebuffer and font -/

/-- DSP-1. -/
theorem test_cls :
    after (at200 0x00E0 ((regs [(15, 5)]).setFb (Framebuffer.flip Framebuffer.clear 3 4)))
      (fun t => t.pixel 3 4 == false && t.readV 15 == 5) = true := by decide
/-- DSP-4: columns wrap, the sprite's left bit is bit 7. -/
theorem test_drw_wraps :
    after (at200 0xD011 (poke { regs [(0, 62), (15, 9)] with i := 0x300 } 0x300 [0xFF]))
      (fun t => lit t [(61, 0), (62, 0), (63, 0), (0, 0), (5, 0), (6, 0)] == [false, true, true, true, true, false] &&
        t.readV 15 == 0) = true := by decide
/-- DSP-8: a collision. -/
theorem test_drw_collision :
    after (at200 0xD011 (poke { (State.reset.setFb (Framebuffer.flip Framebuffer.clear 0 0)) with i := 0x300 } 0x300 [0xC0]))
      (fun t => lit t [(0, 0), (1, 0), (2, 0)] == [false, true, false] && t.readV 15 == 1) = true := by decide
/-- DSP-11. -/
theorem test_ldF : after (at200 0xF229 (regs [(2, 0x0A)])) (fun t => t.i == 0x32) = true := by decide
/-- DSP-13: not masked. -/
theorem test_ldF_255 : after (at200 0xF229 (regs [(2, 0xFF)])) (fun t => t.i == 0x4FB) = true := by decide

/-! ### Index arithmetic and block operations -/

/-- MEM-2: no 12-bit mask, no flag. -/
theorem test_addI_no_mask :
    after (at200 0xF41E { regs [(4, 1)] with i := 0xFFF }) (fun t => t.i == 0x1000 && t.readV 15 == 0) = true := by decide
/-- MEM-3: 16-bit wrap. -/
theorem test_addI_wraps : after (at200 0xF41E { regs [(4, 2)] with i := 0xFFFF }) (fun t => t.i == 1) = true := by decide
/-- MEM-4. -/
theorem test_ldB :
    after (at200 0xF333 { regs [(3, 0x9C)] with i := 0x300 })
      (fun t => t.readByte 0x300 == 1 && t.readByte 0x301 == 5 && t.readByte 0x302 == 6) = true := by decide
/-- MEM-7: no byte is written. -/
theorem test_ldB_range :
    after (at200 0xF333 { regs [(3, 7)] with i := 0xFFE })
      (fun t => t.fault == some { code := .memWriteRange, pc := 0x200, op := some 0xF333, addr := some 0x1000 } &&
        t.readByte 0xFFE == 0 && t.readByte 0xFFF == 0 && t.pc == 0x200) = true := by decide
/-- MEM-8. -/
theorem test_storeRegs :
    after (at200 0xF155 { regs [(0, 0x11), (1, 0x22), (2, 0x33)] with i := 0x400 })
      (fun t => t.readByte 0x400 == 0x11 && t.readByte 0x401 == 0x22 && t.readByte 0x402 == 0 && t.i == 0x400) = true := by
  decide
/-- MEM-11. -/
theorem test_storeRegs_range :
    after (at200 0xF055 { State.reset with i := 0x1000 })
      (fun t => t.fault == some { code := .memWriteRange, pc := 0x200, op := some 0xF055, addr := some 0x1000 }) = true := by
  decide
/-- MEM-12. -/
theorem test_loadRegs :
    after (at200 0xF165 (poke { regs [(2, 0x99)] with i := 0x400 } 0x400 [0x11, 0x22, 0x33]))
      (fun t => t.readV 0 == 0x11 && t.readV 1 == 0x22 && t.readV 2 == 0x99 && t.i == 0x400) = true := by decide
/-- MEM-14. -/
theorem test_loadRegs_range :
    after (at200 0xF065 { State.reset with i := 0xFFFF })
      (fun t => t.fault == some { code := .memReadRange, pc := 0x200, op := some 0xF065, addr := some 0xFFFF } &&
        t.readV 0 == 0) = true := by decide

/-! ### Timers and key wait -/

/-- TMK-1: the value before the tick. -/
theorem test_ldVxDt : after (at200 0xF307 { State.reset with dt := 0x3C }) (fun t => t.readV 3 == 0x3C && t.dt == 0x3B) = true := by
  decide
/-- TMK-4: the tick of the same step. -/
theorem test_ldDtVx : after (at200 0xF115 (regs [(1, 0x10)])) (fun t => t.dt == 0x0F && t.st == 0) = true := by decide
/-- TMK-6. -/
theorem test_ldStVx : after (at200 0xF118 (regs [(1, 2)])) (fun t => t.st == 1 && t.dt == 0) = true := by decide
/-- TMK-7: mode noop. -/
theorem test_ldVxK_noop :
    after (place 0x220 0xF30A (regs [(3, 0x44)])) (fun t => t.pc == 0x222 && t.readV 3 == 0x44 && t.wait == none) = true := by
  decide
/-- TMK-8: mode wait. -/
theorem test_ldVxK_wait :
    after (place 0x220 0xF30A { State.reset with keyWaitMode := .wait, dt := 5 })
      (fun t => t.wait == some 3 && t.pc == 0x222 && t.dt == 4) = true := by decide

/-! ### Step, faults, host operations -/

/-- DEC-1: an unmapped word. -/
theorem test_unmapped : after (at200 0x800F { State.reset with dt := 2 }) (fun t => t.pc == 0x202 && t.dt == 1) = true := by
  decide
/-- DEC-5: FetchRange. -/
theorem test_fetch_range :
    after { State.reset with pc := 0xFFF, dt := 3 }
      (fun t => t.fault == some { code := .fetchRange, pc := 0xFFF, op := none, addr := some 0x1000 } && t.dt == 3 &&
        t.pc == 0xFFF) = true := by decide
/-- DEC-6: the last word of memory. -/
theorem test_fetch_last_word : after (poke { State.reset with pc := 0xFFE } 0xFFE [0x12, 0x00]) (fun t => t.pc == 0x200) = true := by
  decide
/-- TMK-9: a held step fetches nothing and ticks. -/
theorem test_held : after (at200 0x6A42 { State.reset with wait := some 3, dt := 4 })
    (fun t => t.pc == 0x200 && t.dt == 3 && t.readV 10 == 0 && t.wait == some 3) = true := by decide
/-- TMK-10: a press ends the wait. -/
theorem test_setKey_ends_wait :
    (({ State.reset with wait := some 3 } : State).setKey 7 true).2.readV 3 = 7 ∧
      (({ State.reset with wait := some 3 } : State).setKey 7 true).2.wait = none := by decide
/-- TMK-11: a release does not. -/
theorem test_setKey_release_keeps_wait : (({ State.reset with wait := some 3 } : State).setKey 7 false).2.wait = some 3 := by
  decide
/-- DEC-9. -/
theorem test_setKey_16 : (State.reset.setKey 16 true).1 = .keyIndexInvalid := by decide
/-- DEC-12: the rest of an earlier program stays. -/
theorem test_loadROM_leftover :
    ((poke State.reset 0x200 [0x6A, 0x01, 0x6B, 0x02]).loadROM [0x00, 0xE0]).2.readByte 0x201 = 0xE0 ∧
      ((poke State.reset 0x200 [0x6A, 0x01, 0x6B, 0x02]).loadROM [0x00, 0xE0]).2.readByte 0x203 = 0x02 := by decide
/-- DEC-13. -/
theorem test_getScreen :
    ((State.reset.setFb (Framebuffer.flip Framebuffer.clear 3 4)).getScreen[259]?) = some true := by decide
/-- 93_implementation_defined.md G1: glyph 7 is F0 10 20 40 40 at 0x023. -/
theorem test_font_7 :
    (List.range 5).map (fun k => State.reset.readByte (0x23 + k)) = [0xF0, 0x10, 0x20, 0x40, 0x40] := by decide
/-- The model's placing of a word: the next step of reset runs the table's word. -/
theorem test_withFetchWord : after (State.reset.withFetchWord 16 0x6A42) (fun t => t.readV 10 == 0x42) = true := by decide

/-! ### Witnesses: the hypotheses of the statements can be met -/

/-- The state a step leaves, the state itself where it leaves none. -/
def nextOf (s : State) : State :=
  match step s with
  | .next t => t
  | .fault _ => s
  | .refused _ => s

theorem step_nextOf {s : State} (h : after s (fun _ => true) = true) : step s = .next (nextOf s) := by
  unfold after at h
  unfold nextOf
  split at h <;> simp_all

/-- The state the execute phase leaves, the state itself where it leaves none. -/
def execOf (i : Instr) (s : State) : State :=
  match exec i s with
  | .next t => t
  | .fault _ => s
  | .refused _ => s

/-- `SpriteCovers` from its pieces. -/
theorem covers_of {s : State} {x y : RegNo} {n : BitVec 4} {c : Fin 64} {r : Fin 32} (row col : Nat)
    (h : (decide (row < n.toNat) && decide (col < 8) && (s.readByte (s.i.toNat + row)).getLsbD (7 - col) &&
      decide (c.val = ((s.readV x).toNat + col) % 64) && decide (r.val = ((s.readV y).toNat + row) % 32)) = true) :
    SpriteCovers s x y n c r := by
  simp only [Bool.and_eq_true, decide_eq_true_eq] at h
  exact ⟨row, col, h.1.1.1.1, h.1.1.1.2, h.1.1.2, h.1.2, h.2⟩

/-- A call with a full stack: CTL-5. -/
def overflowing : State := place 0x400 0x2600 { State.reset with sp := 16, dt := 3 }

/-- A faulted core: DEC-5. -/
def fetchFaulted : State :=
  { State.reset with pc := 0xFFF, fault := some { code := .fetchRange, pc := 0xFFF, op := none, addr := some 0x1000 } }

/-- A core held by WAIT. -/
def held : State := { State.reset with keyWaitMode := .wait, wait := some 3, dt := 1 }

/-- One row of the sprite 0xFF at the last address, the framebuffer clear. -/
def drawing : State := poke { State.reset with i := 0xFFF } 0xFFF [0xFF]

/-- The same with the first cell set. -/
def colliding : State := drawing.setFb (Framebuffer.flip Framebuffer.clear 0 0)

theorem test_witness_DecodeOfEncodeIsIdentity :
    (Instr.sys 0x0EF#12).wellFormed = true ∧ (Instr.drw 15 15 15#4).wellFormed = true := by decide

theorem test_witness_EncodeOfDecodeGivesTheWord :
    (decode 0x512F#16 = .ok (.seReg 1 2) ∧ (0x512F#16).toNat / 4096 = 5) ∧
    (decode 0x9FFF#16 = .ok (.sneReg 15 15) ∧ (0x9FFF#16).toNat / 4096 = 9) ∧
    decode 0xDFFF#16 = .ok (.drw 15 15 15#4) ∧ (0xDFFF#16).toNat / 4096 ≠ 5 ∧ (0xDFFF#16).toNat / 4096 ≠ 9 :=
  ⟨⟨rfl, by decide⟩, ⟨rfl, by decide⟩, rfl, by decide, by decide⟩

theorem test_witness_IgnoredWordsOnlyAdvance :
    (Fetches (at200 0x8008 State.reset) 0x8008 ∧ IsIgnoredWord 0x8008) ∧
    (Fetches (at200 0xE0A0 State.reset) 0xE0A0 ∧ IsIgnoredWord 0xE0A0) ∧
    (Fetches (at200 0xF066 State.reset) 0xF066 ∧ IsIgnoredWord 0xF066) ∧
    Fetches (at200 0x00E1 State.reset) 0x00E1 ∧ IsIgnoredWord 0x00E1 :=
  ⟨⟨fetches_of (by decide), by unfold IsIgnoredWord; decide⟩, ⟨fetches_of (by decide), by unfold IsIgnoredWord; decide⟩,
    ⟨fetches_of (by decide), by unfold IsIgnoredWord; decide⟩, fetches_of (by decide), by unfold IsIgnoredWord; decide⟩

theorem test_witness_StepRunsTheDecodedInstruction :
    (Fetches overflowing 0x2600 ∧ decode 0x2600 = .ok (.call 0x600#12) ∧
      (execOf (.call 0x600#12) overflowing).fault.isSome = true) ∧
    Fetches (at200 0x6A42 State.reset) 0x6A42 ∧ decode 0x6A42 = .ok (.ldImm 10 0x42#8) ∧
      (execOf (.ldImm 10 0x42#8) (at200 0x6A42 State.reset)).fault = none :=
  ⟨⟨fetches_of (by decide), rfl, by decide⟩, fetches_of (by decide), rfl, by decide⟩

theorem test_witness_FaultedCoreIsSticky :
    (∃ r, fetchFaulted.fault = some r) ∧ fetchFaulted.wait = none ∧
      (List.replicate 3584 0#8).length ≤ 3584 ∧ 3584 < (List.replicate 3585 0#8).length :=
  ⟨⟨_, rfl⟩, rfl, by rw [List.length_replicate], by rw [List.length_replicate]; decide⟩

theorem test_witness_HeldStepOnlyTicks :
    held.fault = none ∧ held.wait = some 3 ∧ (0 : Int) ≤ 15 ∧ (15 : Int) < 16 ∧ (List.replicate 3584 0#8).length ≤ 3584 :=
  ⟨rfl, rfl, by decide, by decide, by rw [List.length_replicate]⟩

theorem test_witness_FetchOutOfRangeFaults :
    ({ State.reset with pc := 0x0FFF } : State).fault = none ∧ ({ State.reset with pc := 0x0FFF } : State).wait = none ∧
      0x0FFF ≤ ({ State.reset with pc := 0x0FFF } : State).pc.toNat := by decide

theorem test_witness_FetchIsBigEndian :
    ({ State.reset with pc := 0x0FFE } : State).pc.toNat + 1 < 4096 ∧ (List.replicate 3582 0#8).length ≤ 3582 :=
  ⟨by decide, by rw [List.length_replicate]⟩

theorem test_witness_FaultingStepChangesOnlyFault :
    overflowing.fault = none ∧ step overflowing = .next (nextOf overflowing) ∧
      (nextOf overflowing).fault = some { code := .stackOverflow, pc := 0x400, op := some 0x2600, addr := none } :=
  ⟨by decide, step_nextOf (by decide), by decide⟩

theorem test_witness_FaultsHaveTheirCauses :
    (Fetches overflowing 0x2600 ∧ step overflowing = .next (nextOf overflowing) ∧ decode 0x2600 = .ok (.call 0x600#12)) ∧
    Fetches (at200 0x800F State.reset) 0x800F ∧
      step (at200 0x800F State.reset) = .next (nextOf (at200 0x800F State.reset)) ∧
      decode 0x800F = .error (.group8 0xF#4) :=
  ⟨⟨fetches_of (by decide), step_nextOf (by decide), rfl⟩, fetches_of (by decide), step_nextOf (by decide), rfl⟩

theorem test_witness_TimersTickOncePerStep :
    (let s := at200 0xF115 (regs [(1, 1)])
     s.fault = none ∧ step s = .next (nextOf s) ∧ (nextOf s).fault = none ∧ Executes s (.ldDtVx 1)) ∧
    (let s := at200 0xF118 (regs [(1, 0)])
     s.fault = none ∧ step s = .next (nextOf s) ∧ (nextOf s).fault = none ∧ Executes s (.ldStVx 1)) ∧
    held.fault = none ∧ step held = .next (nextOf held) ∧ (nextOf held).fault = none ∧
      (∀ x, ¬ Executes held (.ldDtVx x)) ∧ ∀ x, ¬ Executes held (.ldStVx x) :=
  ⟨⟨by decide, step_nextOf (by decide), by decide, 0xF115, fetches_of (by decide), rfl⟩,
    ⟨by decide, step_nextOf (by decide), by decide, 0xF118, fetches_of (by decide), rfl⟩,
    by decide, step_nextOf (by decide), by decide,
    fun _ h => absurd h.choose_spec.1.not_held (by decide), fun _ h => absurd h.choose_spec.1.not_held (by decide)⟩

theorem test_witness_IdleLoopOnlyTicks : Idles (place 0x20C 0x120C State.reset) :=
  ⟨0x20C#12, ⟨0x120C, fetches_of (by decide), rfl⟩, by decide⟩

theorem test_witness_RegistersChangeOnlyByTheirWriters :
    let s := at200 0x6A42 State.reset
    step s = .next (nextOf s) ∧ (nextOf s).readV 10 ≠ s.readV 10 :=
  ⟨step_nextOf (by decide), by decide⟩

theorem test_witness_IndexAndStackHaveTheirWriters :
    (let s := at200 0xA2F0 State.reset
     step s = .next (nextOf s) ∧ (nextOf s).i ≠ s.i) ∧
    (let s := at200 0x2204 State.reset
     step s = .next (nextOf s) ∧ (nextOf s).sp ≠ s.sp ∧ (nextOf s).stack ≠ s.stack) :=
  ⟨⟨step_nextOf (by decide), by decide⟩, step_nextOf (by decide), by decide, by decide⟩

theorem test_witness_MemoryChangesOnlyByStores :
    (let s := at200 0xF333 { regs [(3, 0xFF)] with i := 0xFFD }
     step s = .next (nextOf s) ∧ (nextOf s).readByte 0xFFF ≠ s.readByte 0xFFF) ∧
    (let s := at200 0xFF55 { regs [(15, 1)] with i := 0xFF0 }
     step s = .next (nextOf s) ∧ (nextOf s).readByte 0xFFF ≠ s.readByte 0xFFF) :=
  ⟨⟨step_nextOf (by decide), by decide⟩, step_nextOf (by decide), by decide⟩

theorem test_witness_ScreenLatchAndWaitHaveTheirWriters :
    (let s := at200 0xD011 drawing
     step s = .next (nextOf s) ∧ (nextOf s).pixel 0 0 ≠ s.pixel 0 0) ∧
    (let s := at200 0x00E0 colliding
     step s = .next (nextOf s) ∧ (nextOf s).pixel 0 0 ≠ s.pixel 0 0) ∧
    (let s := at200 0xF30A { State.reset with keyWaitMode := .wait }
     step s = .next (nextOf s) ∧ (nextOf s).wait ≠ s.wait) :=
  ⟨⟨step_nextOf (by decide), by decide⟩, ⟨step_nextOf (by decide), by decide⟩, step_nextOf (by decide), by decide⟩

/-- A running state at the highest `pc`, with bytes listed and a slot at its bound, meets the invariant and steps. -/
theorem test_witness_StepKeepsInvariant :
    let s : State := { poke State.reset 0x300 [1, 2] with pc := 0x10FE, stack := State.reset.stack.set 0 0x0FFE }
    Inv s ∧ step s = .next (nextOf s) :=
  ⟨⟨by decide, by decide, by decide, fun _ => rfl, fun _ => rfl, fun _ h => nomatch h⟩, step_nextOf (by decide)⟩

/-- A faulted state that meets the invariant. -/
theorem test_witness_HostOperationsKeepInvariant : Inv fetchFaulted :=
  ⟨by decide, by decide, by decide, fun _ => rfl, fun _ => rfl, fun _ h => by
    cases h
    exact ⟨rfl, rfl, by decide⟩⟩

theorem test_witness_EqualReadsAreEqualMemories :
    let m := Memory.write defaultFont (Memory.write defaultFont [] 0x300 1) 0xFFF 2
    let m' := Memory.write defaultFont (Memory.write defaultFont [] 0xFFF 2) 0x300 1
    Memory.wf defaultFont m ∧ Memory.wf defaultFont m' ∧
      ∀ a, a < 4096 → Memory.read defaultFont m a = Memory.read defaultFont m' a :=
  ⟨by decide, by decide, fun _ _ => rfl⟩

theorem test_witness_SysOnlyAdvances : 0x0EF#12 ≠ 0x0E0#12 ∧ 0x0EF#12 ≠ 0x0EE#12 := by decide

theorem test_witness_JumpSetsPc : (0x20C#12).toNat = (place 0x20C 0x120C State.reset).pc.toNat := by decide

theorem test_witness_CallPushesItsOwnAddress :
    ({ State.reset with sp := 15 } : State).sp.val < 16 ∧ ((14 : Fin 16).val ≠ ({ State.reset with sp := 15 } : State).sp.val) ∧
      ({ State.reset with sp := 16 } : State).sp.val = 16 := by decide

theorem test_witness_ReturnGoesPastTheCall :
    0 < ({ State.reset with sp := 1 } : State).sp.val ∧ 0 < ({ State.reset with sp := 16 } : State).sp.val ∧
      State.reset.sp.val = 0 ∧
      (let s : State := { State.reset with sp := 15 }
       s.sp.val < 16 ∧ ∃ t u, exec (.call 0x600#12) s = .next t ∧ exec .ret t = .next u) :=
  ⟨by decide, by decide, rfl, by decide, _, _, rfl, rfl⟩

theorem test_witness_ImmediateSkips :
    ((regs [(1, 7)]).readV 1).toNat = (0x07#8).toNat ∧ ((regs [(1, 7)]).readV 1).toNat ≠ (0x08#8).toNat := by decide

theorem test_witness_RegisterSkips :
    ((regs [(1, 7)]).readV 1).toNat = ((regs [(1, 7)]).readV 1).toNat ∧
      ((regs [(1, 7)]).readV 1).toNat ≠ ((regs [(1, 7)]).readV 2).toNat := by decide

theorem test_witness_KeySkips :
    (let s := (regs [(0, 15)]).setKeyFlag 15 true
     (s.readV 0).toNat = (15 : Fin 16).val ∧ s.keys[(15 : Fin 16)] = true) ∧
    ((regs [(0, 15)]).readV 0).toNat = (15 : Fin 16).val ∧ (regs [(0, 15)]).keys[(15 : Fin 16)] = false ∧
      16 ≤ ((regs [(0, 16)]).readV 0).toNat := by decide

/-- For the hypothesis of AddRegistersSetsCarry, SubtractSetsNotBorrow, ReverseSubtractSetsNotBorrow, ShiftRightSetsBitOut and
ShiftLeftSetsBitOut. -/
theorem test_witness_flag_setting : (14 : RegNo) ≠ 0xF := by decide

theorem test_witness_BitwiseOperations : 7 < 8 := by decide

theorem test_witness_RandomIsMasked : (0x0F#8).getLsbD 7 = false := by decide

theorem test_witness_DrawTogglesCoveredCells :
    (0#4).toNat = 0 ∧ drawing.i.toNat + (1#4).toNat ≤ 4096 ∧ SpriteCovers drawing 0 1 1#4 0 0 ∧ SpriteCovers drawing 0 1 1#4 7 0 ∧
      (¬ SpriteCovers drawing 0 1 1#4 8 0) ∧
      (∃ c r, SpriteCovers colliding 0 1 1#4 c r ∧ colliding.pixel c r = true) ∧
      ¬ ∃ c r, SpriteCovers drawing 0 1 1#4 c r ∧ drawing.pixel c r = true := by
  refine ⟨by decide, by decide, covers_of 0 0 (by decide), covers_of 0 7 (by decide), ?_,
    ⟨0, 0, covers_of 0 0 (by decide), by decide⟩, ?_⟩
  · rintro ⟨row, col, _, h, _, hc, _⟩
    have h0 : (drawing.readV 0).toNat = 0 := by decide
    have h8 : (8 : Fin 64).val = 8 := rfl
    rw [h0, h8] at hc
    omega
  · rintro ⟨c, r, -, h⟩
    have hp : drawing.pixel c r = false := by
      clear h
      simp [drawing, poke, State.writeImage, State.writeByte, State.pixel, Framebuffer.get, State.reset, State.construct]
    rw [hp] at h
    exact absurd h (by decide)

theorem test_witness_DrawOutOfRangeFaults :
    0 < (1#4).toNat ∧ 4096 < ({ State.reset with i := 0x1000 } : State).i.toNat + (1#4).toNat ∧
      0 < (3#4).toNat ∧ 4096 < ({ State.reset with i := 0xFFE } : State).i.toNat + (3#4).toNat := by decide

theorem test_witness_DrawingTwiceRestores :
    (0 : RegNo) ≠ 0xF ∧ (1 : RegNo) ≠ 0xF ∧ drawing.i.toNat + (1#4).toNat ≤ 4096 ∧
      ∃ t u, exec (.drw 0 1 1#4) drawing = .next t ∧ exec (.drw 0 1 1#4) t = .next u :=
  ⟨by decide, by decide, by decide, _, _, rfl, rfl⟩

theorem test_witness_StoreDecimalDigits :
    ({ State.reset with i := 0xFFD } : State).i.toNat + 2 < 4096 ∧
      4096 ≤ ({ State.reset with i := 0xFFE } : State).i.toNat + 2 := by decide

/-- For StoreRegisters and LoadRegisters: the last block that fits and the first that does not, and a register of the
block. -/
theorem test_witness_StoreRegisters_LoadRegisters :
    ({ State.reset with i := 0xFF0 } : State).i.toNat + (15 : RegNo).val < 4096 ∧
      4096 ≤ ({ State.reset with i := 0xFF1 } : State).i.toNat + (15 : RegNo).val ∧ (15 : RegNo) ≤ 15 := by decide

theorem test_witness_KeyWait :
    State.reset.keyWaitMode = .noop ∧ ({ State.reset with keyWaitMode := .wait } : State).keyWaitMode = .wait := by decide

theorem test_witness_SetKeyLatchesAndReleases :
    ((15 : Int) = ((15 : Fin 16).val : Int)) ∧ State.reset.wait = none ∧ held.wait = some 3 ∧ (-1 : Int) < 0 ∧ (16 : Int) ≤ 16 := by
  decide

theorem test_witness_LoadRomWritesAndResets :
    (List.replicate 3584 1#8).length ≤ 3584 ∧ 3583 < (List.replicate 3584 1#8).length ∧
      ¬ (0x200 ≤ 0x1FF ∧ 0x1FF < 0x200 + (List.replicate 3584 1#8).length) ∧
      ¬ (0x200 ≤ 4096 ∧ 4096 < 0x200 + (List.replicate 3584 1#8).length) ∧ 3584 < (List.replicate 3585 1#8).length := by
  rw [List.length_replicate, List.length_replicate]
  decide

theorem test_witness_ConstructedStateRunsZeroedMemory : 80 ≤ 0x200 := by decide

/-- For FaultedRunsEndFaulted: 00EE with an empty stack faults in the first step (R166), with a key pressed before it; the
load is into a core that has faulted already. -/
theorem test_witness_FaultedRunsEndFaulted :
    let ops : List HostOp := [.setKey 5 true, .getScreen, .step]
    let s := (State.reset.loadROM [0x00, 0xEE]).2.apply .step
    ProgramRun s [0x00, 0xEE] ops 1 ∧ s.fault.isSome = true ∧ (runTo s [0x00, 0xEE] ops).fault.isSome = true ∧
      (runTo s [0x00, 0xEE] ops).keys[5] = true :=
  ⟨⟨⟨defaultFont, defaultKeyWaitMode, [.loadROM [0x00, 0xEE], .step], rfl⟩, by decide, by decide, by decide, .inr rfl⟩,
    by decide, by decide, by decide⟩

/-- For the last clause of FaultedRunsEndFaulted, and for RunIdles: a jump to itself (R267). -/
theorem test_witness_safe_idle_run :
    let ops : List HostOp := [.setKey 5 true, .step]
    ProgramRun State.reset [0x12, 0x00] ops 1 ∧ SafeRun State.reset [0x12, 0x00] ops ∧ RunIdles State.reset [0x12, 0x00] ops :=
  ⟨⟨⟨defaultFont, defaultKeyWaitMode, [], rfl⟩, by decide, by decide, by decide, .inr rfl⟩,
    by
      rintro (⟨h, _⟩ | ⟨_, r, h⟩ | h)
      · exact absurd h (by decide)
      · exact absurd h (by
          have hf : ∀ s t : State, s.fault = none → t.fault = none → stepResult s t ≠ .fault r := fun s t hs ht => by
            simp [stepResult, hs, ht]
          exact hf _ _ (by decide) (by decide))
      · exact h,
    .inr (.inl ⟨rfl, 0x200#12, ⟨0x1200, fetches_of (by decide), rfl⟩, by decide⟩)⟩

end Sys2Proof.Tests
end

section
/-!
PROOFS. What construction and `reset` leave in the registers and the framebuffer (10_state.md R24, R49).
-/

namespace Sys2Proof.Machine

/-- Every register reads 0 in a zeroed register file. -/
theorem State.readV_eq_zero {s : State} (hv : s.v = Vector.replicate 16 0) (r : RegNo) : s.readV r = 0 := by
  simp [State.readV, hv]

/-- Every cell reads 0 in a cleared framebuffer. -/
theorem State.pixel_eq_false {s : State} (hfb : s.fb = Framebuffer.clear) (c : Fin 64) (r : Fin 32) :
    s.pixel c r = false := by
  rw [State.pixel, hfb, Framebuffer.get_clear]

@[simp] theorem State.construct_readV (font : Font) (mode : KeyWaitMode) (r : RegNo) :
    (State.construct font mode).readV r = 0 :=
  State.readV_eq_zero rfl r

@[simp] theorem State.construct_pixel (font : Font) (mode : KeyWaitMode) (c : Fin 64) (r : Fin 32) :
    (State.construct font mode).pixel c r = false :=
  State.pixel_eq_false rfl c r

@[simp] theorem State.resetOp_readV (s : State) (r : RegNo) : s.resetOp.readV r = 0 :=
  State.readV_eq_zero rfl r

@[simp] theorem State.resetOp_pixel (s : State) (c : Fin 64) (r : Fin 32) : s.resetOp.pixel c r = false :=
  State.pixel_eq_false rfl c r

/-- Settles O57: construction and `reset` both give `I` and the timers the literal 0, a zeroed register file and a cleared
framebuffer. -/
theorem registersTimersAndScreenStartAtZero : Obligations.RegistersTimersAndScreenStartAtZero :=
  ⟨fun font mode => ⟨State.construct_readV font mode, rfl, rfl, rfl, State.construct_pixel font mode⟩,
    fun s => ⟨s.resetOp_readV, rfl, rfl, rfl, s.resetOp_pixel⟩⟩

end Sys2Proof.Machine
end

section
/-!
PROOFS. The bytes of a fetched word, and what `loadROM` leaves in memory (20_memory.md R68; 70_reset_and_hazards.md R283).
-/

namespace Sys2Proof.Machine

/-! ### The bytes of a word -/

/-- The byte at the lower address holds bits 15 to 8. -/
@[simp] theorem firstByte_wordOfBytes (a b : Byte) : firstByte (wordOfBytes a b) = a := by
  apply BitVec.eq_of_toNat_eq
  rw [firstByte, BitVec.extractLsb'_toNat, Nat.shiftRight_eq_div_pow, wordOfBytes_toNat]
  omega

/-- The byte at the higher address holds bits 7 to 0. -/
@[simp] theorem secondByte_wordOfBytes (a b : Byte) : secondByte (wordOfBytes a b) = b := by
  apply BitVec.eq_of_toNat_eq
  rw [secondByte, BitVec.extractLsb'_toNat, Nat.shiftRight_zero, wordOfBytes_toNat]
  omega

/-! ### The image of a program -/

/-- Where every address exists, the host's image write is the machine's block write. -/
theorem State.memWrites_eq_writeImage (s : State) (a : Nat) (bs : List Byte) (h : a + bs.length ≤ 4096) :
    s.memWrites a bs = .ok (s.writeImage a bs) := by
  induction bs generalizing s a with
  | nil => rfl
  | cons b bs ih =>
    rw [List.length_cons] at h
    simp only [State.memWrites, State.memWrite, State.writeImage, Config.memSize]
    rw [if_neg (by omega)]
    exact ih _ _ (by omega)

/-- The image write changes memory alone, each byte lands at its address, the others keep theirs, and the canonical form is
kept. -/
theorem State.writeImage_ok (s : State) (a : Nat) (bs : List Byte) (h : a + bs.length ≤ 4096) :
    ∃ m, s.writeImage a bs = { s with mem := m } ∧
      (∀ q, ({ s with mem := m } : State).readByte q =
        if a ≤ q then (bs[q - a]?).getD (s.readByte q) else s.readByte q) ∧
      (Memory.wf s.font s.mem → Memory.wf s.font m) := by
  obtain ⟨m, hm, hread, hwf⟩ := s.memWrites_ok a bs h
  rw [s.memWrites_eq_writeImage a bs h] at hm
  exact ⟨m, Except.ok.inj hm, hread, hwf⟩

@[simp] theorem State.resetOp_readByte (s : State) (q : Nat) : s.resetOp.readByte q = s.readByte q := rfl

/-- A successful load is the image write at PROGRAM_BASE, then `reset`. -/
theorem State.loadROM_of_le (s : State) {bytes : List Byte} (h : bytes.length ≤ Config.maxRom) :
    s.loadROM bytes = (.ok, (s.writeImage Config.programBase bytes).resetOp) := by
  rw [State.loadROM, if_neg (Nat.not_lt.2 h)]

/-- A successful load leaves `pc` at PROGRAM_BASE. -/
theorem State.loadROM_pc (s : State) {bytes : List Byte} (h : bytes.length ≤ Config.maxRom) :
    (s.loadROM bytes).2.pc = 0x200#16 := by
  rw [s.loadROM_of_le h]
  rfl

/-- After a successful load the program's bytes stand from 0x200 on and every other byte is what it was. -/
theorem State.loadROM_readByte (s : State) {bytes : List Byte} (h : bytes.length ≤ Config.maxRom) (q : Nat) :
    (s.loadROM bytes).2.readByte q =
      if 0x200 ≤ q then (bytes[q - 0x200]?).getD (s.readByte q) else s.readByte q := by
  obtain ⟨m, hm, hread, -⟩ := s.writeImage_ok Config.programBase bytes
    (by simp only [Config.programBase, Config.maxRom] at h ⊢; omega)
  rw [s.loadROM_of_le h, State.resetOp_readByte, hm]
  exact hread q

/-! ### The fetch -/

/-- The first fetch after a successful load reads the program's first two bytes. -/
theorem State.loadROM_fetch (s : State) (first second : Byte) (rest : List Byte) (h : rest.length ≤ 3582) :
    (s.loadROM (first :: second :: rest)).2.fetch = .ok (wordOfBytes first second) := by
  have hlen : (first :: second :: rest).length ≤ Config.maxRom := by
    simp only [List.length_cons, Config.maxRom]
    omega
  have hpc : (s.loadROM (first :: second :: rest)).2.pc.toNat = 0x200 := by rw [s.loadROM_pc hlen]; rfl
  rw [State.fetch_ok _ (by omega), hpc, s.loadROM_readByte hlen, s.loadROM_readByte hlen]
  rfl

/-- Settles O10: a fetch reads the word of its two bytes, whose number and whose bytes are those of R68, and after a load
those two bytes are the program's first. -/
theorem fetchIsBigEndian : Obligations.FetchIsBigEndian :=
  ⟨fun s hpc => ⟨_, s.fetch_ok hpc, wordOfBytes_toNat _ _, firstByte_wordOfBytes _ _, secondByte_wordOfBytes _ _⟩,
    fun s first second rest hlen => ⟨_, s.loadROM_fetch first second rest hlen, wordOfBytes_toNat first second⟩⟩

end Sys2Proof.Machine
end

section
/-!
PROOFS. Which words the decoder leaves to R86, group by group, and the step that ignores one (30_encoding.md R85 to R88, R92).
-/

namespace Sys2Proof.Machine

/-! ### What the decoder says of an ignored word -/

/-- The two answers of the decoder that R86 gives one behaviour: a refusal by name, and SYS nnn. -/
def ReadsIgnored (d : Except Unmapped Instr) : Prop := (∃ u, d = .error u) ∨ ∃ nnn, d = .ok (.sys nnn)

@[simp] theorem readsIgnored_error (u : Unmapped) : ReadsIgnored (.error u) := .inl ⟨u, rfl⟩

@[simp] theorem readsIgnored_ok (i : Instr) : ReadsIgnored (.ok i) ↔ ∃ nnn, i = .sys nnn := by simp [ReadsIgnored]

/-- Group 0 is SYS nnn but for its two exact words (R85). -/
theorem readsIgnored_group0 (op : Word) :
    ReadsIgnored (.ok (decodeGroup0 op)) ↔ op ≠ 0x00E0#16 ∧ op ≠ 0x00EE#16 := by
  rw [readsIgnored_ok, decodeGroup0]
  split_ifs with hcls hret <;> simp [*]

/-- Group 8 refuses the words whose `n` is one of seven values. -/
theorem readsIgnored_group8 (op : Word) :
    ReadsIgnored (decodeGroup8 op) ↔ op.toNat % 16 ∈ [0x8, 0x9, 0xA, 0xB, 0xC, 0xD, 0xF] := by
  have hlt : op.toNat % 16 < 16 := Nat.mod_lt _ (by decide)
  simp only [decodeGroup8, ← BitVec.toNat_inj, fieldN_toNat, BitVec.toNat_ofNat]
  split_ifs
  case neg =>
    simp only [readsIgnored_error, true_iff, List.mem_cons, List.not_mem_nil, or_false]
    omega
  all_goals simp [*]

/-- Group E refuses the words whose `kk` is neither of its two selectors. -/
theorem readsIgnored_groupE (op : Word) : ReadsIgnored (decodeGroupE op) ↔ op.toNat % 256 ∉ [0x9E, 0xA1] := by
  simp only [decodeGroupE, ← BitVec.toNat_inj, fieldKK_toNat, BitVec.toNat_ofNat]
  split_ifs <;> simp [*]

/-- Group F refuses the words whose `kk` is none of its nine selectors. -/
theorem readsIgnored_groupF (op : Word) :
    ReadsIgnored (decodeGroupF op) ↔
      op.toNat % 256 ∉ [0x07, 0x0A, 0x15, 0x18, 0x1E, 0x29, 0x33, 0x55, 0x65] := by
  simp only [decodeGroupF, ← BitVec.toNat_inj, fieldKK_toNat, BitVec.toNat_ofNat]
  split_ifs <;> simp [*]

/-- R86's list is what the decoder refuses or reads as SYS nnn: each of groups 0, 8, E and F by its own lemma, and no word of
the other groups. -/
theorem isIgnoredWord_iff (op : Word) : IsIgnoredWord op ↔ ReadsIgnored (decode op) := by
  rw [IsIgnoredWord, ← fieldG_toNat, ← readsIgnored_group0, ← readsIgnored_group8, ← readsIgnored_groupE,
    ← readsIgnored_groupF]
  rcases decode_groups op with h | h | h | h | h | h | h | h | h | h | h | h | h | h | h | h
  all_goals
    obtain ⟨hg, hd⟩ := h
    simp [hg, hd]

/-! ### The step that ignores a word -/

theorem Fetches.issue_of_error {s : State} {op : Word} {u : Unmapped} (h : Fetches s op) (hd : decode op = .error u) :
    issue s = .settled (ignoredWord s) := by
  simp [issue, h.not_faulted, h.not_held, h.fetch, hd]

theorem Fetches.issue_of_ok {s : State} {op : Word} {i : Instr} (h : Fetches s op) (hd : decode op = .ok i) :
    issue s = .run i := by
  simp [issue, h.not_faulted, h.not_held, h.fetch, hd]

/-- SYS nnn takes the long way, through the execute phase, to the same state as a refused word. -/
theorem Fetches.step_of_isIgnoredWord {s : State} {op : Word} (h : Fetches s op) (hop : IsIgnoredWord op) :
    step s = .next (ignoredWord s) := by
  rcases (isIgnoredWord_iff op).1 hop with ⟨u, hd⟩ | ⟨nnn, hd⟩
  · rw [step, h.issue_of_error hd]
  · have hfinish : finish s.advance = ignoredWord s := finish_of_no_fault h.not_faulted
    rw [step, h.issue_of_ok hd, ← hfinish]
    rfl

/-- An ignored word writes `pc` and the timers alone. -/
theorem ignoredWord_frame (s : State) : Frame { delay := true, sound := true } s (ignoredWord s) :=
  (Frame.refl _ s).advance.tick rfl rfl

/-- Settles O4: the list is the decoder's, group by group, and the step of each listed word is `ignoredWord`. -/
theorem ignoredWordsOnlyAdvance : Obligations.IgnoredWordsOnlyAdvance :=
  ⟨isIgnoredWord_iff, fun s _ hf hop =>
    ⟨ignoredWord s, hf.step_of_isIgnoredWord hop, rfl, countDown_toNat s.dt, countDown_toNat s.st, ignoredWord_frame s⟩⟩

end Sys2Proof.Machine
end

section
/-!
PROOFS. A statement's words, written as numbers, are the encoder's (30_encoding.md R81, R82), and what group 8 decodes by.
Bits of `g` from bit 4 up fall off the word, as they do off the encoder's field.
-/

namespace Sys2Proof.Machine

/-! ### The three word shapes -/

theorem wordNNN_eq_encodeNNN (g : Nat) (nnn : BitVec 12) :
    wordNNN g nnn = encodeNNN (BitVec.ofNat 4 g) nnn := by
  apply BitVec.eq_of_toNat_eq
  rw [wordNNN, encodeNNN_toNat, BitVec.toNat_ofNat, BitVec.toNat_ofNat]
  omega

theorem wordXKK_eq_encodeXKK (g : Nat) (x : RegNo) (kk : Byte) :
    wordXKK g x kk = encodeXKK (BitVec.ofNat 4 g) x kk := by
  apply BitVec.eq_of_toNat_eq
  rw [wordXKK, encodeXKK_toNat, BitVec.toNat_ofNat, BitVec.toNat_ofNat]
  omega

theorem wordXYN_eq_encodeXYN (g : Nat) (x y : RegNo) (n : BitVec 4) :
    wordXYN g x y n = encodeXYN (BitVec.ofNat 4 g) x y n := by
  apply BitVec.eq_of_toNat_eq
  rw [wordXYN, encodeXYN_toNat, BitVec.toNat_ofNat, BitVec.toNat_ofNat]
  omega

/-! ### The register operations of group 8 -/

/-- Group 8 goes by `n` (R88). -/
theorem decode_wordXYN_group8 (x y : RegNo) (n : BitVec 4) :
    decode (wordXYN 0x8 x y n) = decodeGroup8 (encodeXYN 0x8#4 x y n) := by
  simp [wordXYN_eq_encodeXYN, decode]

end Sys2Proof.Machine
end

section
/-!
PROOFS. Loads, arithmetic, logic and shifts (40_load_alu.md): each writes one register, or a result and then its flag (R101),
and advances; what is left of each statement is its arithmetic.
-/

namespace Sys2Proof.Machine

/-! ### The two writes -/

@[simp] theorem State.readV_writeV_same (s : State) (x : RegNo) (b : Byte) : (s.writeV x b).readV x = b := by
  rw [State.readV_writeV, if_pos rfl]

/-- An instruction that writes Vx and advances touches nothing else. -/
theorem State.writeV_advance_frame (s : State) (x : RegNo) (b : Byte) :
    Frame { regs := [x] } s (s.writeV x b).advance :=
  ((Frame.refl _ s).writeV List.mem_cons_self b).advance

/-- An instruction that writes a result and its flag and advances: the result stands in Vx unless x = F, where the flag
wins, and nothing else is touched. -/
theorem State.writeResultFlag_advance (s : State) (x : RegNo) {b : Byte} {c : Bool} {result flag : Nat}
    (hresult : b.toNat = result) (hflag : (flagByte c).toNat = flag) :
    (x ≠ 0xF → ((s.writeResultFlag x b c).advance.readV x).toNat = result) ∧
      ((s.writeResultFlag x b c).advance.readV 0xF).toNat = flag ∧
      (s.writeResultFlag x b c).advance.pc = s.pc + 2 ∧
      Frame { regs := [x, 0xF] } s (s.writeResultFlag x b c).advance := by
  refine ⟨fun hx => ?_, ?_, rfl, ((Frame.refl _ s).writeResultFlag ?_ ?_ b c).advance⟩
  · have hne : x ≠ flagReg := hx
    rw [State.advance_readV, State.readV_writeResultFlag, if_neg hne, if_pos rfl, hresult]
  · have heq : (0xF : RegNo) = flagReg := rfl
    rw [State.advance_readV, State.readV_writeResultFlag, if_pos heq, hflag]
  · exact List.mem_cons_self
  · exact List.mem_cons_of_mem _ List.mem_cons_self

/-! ### The flags and the index as numbers -/

theorem flagByte_toNat (c : Bool) : (flagByte c).toNat = c.toNat := by cases c <;> rfl

theorem flagByte_decide_toNat (p : Prop) [Decidable p] : (flagByte (decide p)).toNat = if p then 1 else 0 := by
  rw [flagByte_toNat, Bool.toNat, Bool.cond_decide]

/-- A bit as the byte VF holds. -/
theorem flagByte_getLsbD_toNat (a : Byte) (k : Nat) : (flagByte (a.getLsbD k)).toNat = a.toNat / 2 ^ k % 2 := by
  rw [flagByte_toNat, BitVec.getLsbD, Nat.toNat_testBit]

theorem flagByte_carryFlag_toNat (a b : Byte) :
    (flagByte (carryFlag a b)).toNat = if a.toNat + b.toNat > 255 then 1 else 0 :=
  flagByte_decide_toNat _

theorem flagByte_notBorrowFlag_toNat (a b : Byte) :
    (flagByte (notBorrowFlag a b)).toNat = if a.toNat ≥ b.toNat then 1 else 0 :=
  flagByte_decide_toNat _

theorem flagByte_shiftOutRight_toNat (a : Byte) : (flagByte (shiftOutRight a)).toNat = a.toNat % 2 := by
  rw [shiftOutRight, flagByte_getLsbD_toNat, Nat.pow_zero, Nat.div_one]

theorem flagByte_shiftOutLeft_toNat (a : Byte) : (flagByte (shiftOutLeft a)).toNat = a.toNat / 128 := by
  rw [shiftOutLeft, flagByte_getLsbD_toNat]
  omega

/-- The wrapped difference of two bytes, with the 256 of the borrow added first. -/
theorem byte_sub_toNat (a b : Byte) : (a - b).toNat = (a.toNat + 256 - b.toNat) % 256 := by
  rw [BitVec.toNat_sub]
  omega

theorem addr16_toNat (nnn : BitVec 12) : (addr16 nnn).toNat = nnn.toNat :=
  BitVec.toNat_setWidth_of_le (by decide)

/-! ### Loads and operations without a flag -/

/-- Settles O32: the register file holds the byte written, and the write is the whole effect. -/
theorem loadImmediate : Obligations.LoadImmediate := fun x kk s =>
  ⟨by simp [wordXKK_eq_encodeXKK, decode],
    (s.writeV x kk).advance, rfl, s.readV_writeV_same x kk, rfl, s.writeV_advance_frame x kk⟩

/-- Settles O33: the sum of two bytes wraps at 256. -/
theorem addImmediateWithoutFlag : Obligations.AddImmediateWithoutFlag := fun x kk s =>
  ⟨by simp [wordXKK_eq_encodeXKK, decode],
    (s.writeV x (s.readV x + kk)).advance, rfl,
    by rw [State.advance_readV, State.readV_writeV_same, BitVec.toNat_add], rfl, s.writeV_advance_frame x _⟩

/-- Settles O35: each operation works bit by bit. -/
theorem bitwiseOperations : Obligations.BitwiseOperations := fun x y s =>
  ⟨by simp [decode_wordXYN_group8, decodeGroup8], by simp [decode_wordXYN_group8, decodeGroup8],
    by simp [decode_wordXYN_group8, decodeGroup8],
    (s.writeV x (s.readV x ||| s.readV y)).advance, (s.writeV x (s.readV x &&& s.readV y)).advance,
    (s.writeV x (s.readV x ^^^ s.readV y)).advance, rfl, rfl, rfl, rfl, rfl, rfl,
    s.writeV_advance_frame x _, s.writeV_advance_frame x _, s.writeV_advance_frame x _, fun b _ => by
      simp only [State.advance_readV, State.readV_writeV_same]
      exact ⟨BitVec.getLsbD_or, BitVec.getLsbD_and, BitVec.getLsbD_xor⟩⟩

/-- Settles O41: a 12-bit address fits in `I`. -/
theorem loadIndex : Obligations.LoadIndex := fun nnn s =>
  ⟨by simp [wordNNN_eq_encodeNNN, decode],
    (s.setI (addr16 nnn)).advance, rfl, addr16_toNat nnn, rfl, ((Frame.refl _ s).setI rfl _).advance⟩

/-! ### Operations with a flag -/

/-- Settles O36: the sum wraps at 256, and the carry is read from the sum that has not wrapped. -/
theorem addRegistersSetsCarry : Obligations.AddRegistersSetsCarry := fun x y s =>
  ⟨by simp [decode_wordXYN_group8, decodeGroup8], _, rfl,
    s.writeResultFlag_advance x (BitVec.toNat_add _ _) (flagByte_carryFlag_toNat _ _)⟩

/-- Settles O37: the difference wraps at 256, and the flag compares the old operands. -/
theorem subtractSetsNotBorrow : Obligations.SubtractSetsNotBorrow := fun x y s =>
  ⟨by simp [decode_wordXYN_group8, decodeGroup8], _, rfl,
    s.writeResultFlag_advance x (byte_sub_toNat _ _) (flagByte_notBorrowFlag_toNat _ _)⟩

/-- Settles O38: the difference of SUB with its operands swapped. -/
theorem reverseSubtractSetsNotBorrow : Obligations.ReverseSubtractSetsNotBorrow := fun x y s =>
  ⟨by simp [decode_wordXYN_group8, decodeGroup8], _, rfl,
    s.writeResultFlag_advance x (byte_sub_toNat _ _) (flagByte_notBorrowFlag_toNat _ _)⟩

/-- Settles O39: a shift right by 1 halves, and bit 0 is the remainder. -/
theorem shiftRightSetsBitOut : Obligations.ShiftRightSetsBitOut := fun x y s =>
  ⟨by simp [decode_wordXYN_group8, decodeGroup8], _, rfl,
    s.writeResultFlag_advance x (by rw [BitVec.toNat_ushiftRight, Nat.shiftRight_one])
      (flagByte_shiftOutRight_toNat _)⟩

/-- Settles O40: a shift left by 1 doubles and wraps at 256, and bit 7 is the quotient by 128. -/
theorem shiftLeftSetsBitOut : Obligations.ShiftLeftSetsBitOut := fun x y s =>
  ⟨by simp [decode_wordXYN_group8, decodeGroup8], _, rfl,
    s.writeResultFlag_advance x (by rw [BitVec.toNat_shiftLeft, Nat.shiftLeft_eq])
      (flagByte_shiftOutLeft_toNat _)⟩

end Sys2Proof.Machine
end

section
/-!
PROOFS. JP, CALL and RET (42_control.md R162, R164, R166): what the execute phase answers below and at the end of the stack,
and the return that follows a call.
-/

namespace Sys2Proof.Machine

/-! ### What CALL and RET answer -/

theorem exec_call_of_lt (nnn : BitVec 12) (s : State) (h : s.sp.val < 16) :
    exec (.call nnn) s = .next
      (State.setPc { s with stack := s.stack.set s.sp.val s.pc, sp := ⟨s.sp.val + 1, by omega⟩ } (addr16 nnn)) := by
  simp only [exec, execCall, State.push_of_lt s s.pc h]

theorem exec_call_of_full (nnn : BitVec 12) (s : State) (h : s.sp.val = 16) :
    exec (.call nnn) s = .next (s.raiseAt .stackOverflow (.call nnn) none) := by
  simp only [exec, execCall, State.push_of_full s s.pc h]

theorem exec_ret_of_pos (s : State) (h : s.sp.val ≠ 0) :
    exec .ret s = .next
      (State.setPc { s with sp := ⟨s.sp.val - 1, by omega⟩ } (s.stack[s.sp.val - 1] + 2)) := by
  simp only [exec, execRet, State.pop_of_pos s h]

theorem exec_ret_of_empty (s : State) (h : s.sp.val = 0) :
    exec .ret s = .next (s.raiseAt .stackUnderflow .ret none) := by
  simp only [exec, execRet, State.pop_of_empty s h]

/-- The address that CALL pushes is the one RET pops, so the return lands on the instruction after the call, with SP where
it was (R166). -/
theorem exec_ret_after_call {nnn : BitVec 12} {s t u : State} (h : s.sp.val < 16)
    (hcall : exec (.call nnn) s = .next t) (hret : exec .ret t = .next u) : u.pc = s.pc + 2 ∧ u.sp = s.sp := by
  rw [exec_call_of_lt nnn s h] at hcall
  cases hcall
  rw [exec_ret_of_pos _ (Nat.succ_ne_zero s.sp.val)] at hret
  cases hret
  have htop : (s.stack.set s.sp.val s.pc)[s.sp.val] = s.pc := Vector.getElem_set_self h
  exact ⟨congrArg (· + 2) htop, rfl⟩

/-! ### The three transfers -/

/-- Settles O25: the target is the zero-extended address, and two 16-bit addresses equal as numbers are equal. -/
theorem jumpSetsPc : Obligations.JumpSetsPc := fun nnn s =>
  ⟨by simp [wordNNN_eq_encodeNNN, decode],
    s.setPc (addr16 nnn), rfl, addr16_toNat nnn, fun hself => BitVec.eq_of_toNat_eq ((addr16_toNat nnn).trans hself),
    (Frame.refl _ s).setPc _⟩

/-- Settles O26: below 16 the write at SP reads back and leaves the other slots; at 16 the push fails. -/
theorem callPushesItsOwnAddress : Obligations.CallPushesItsOwnAddress := fun nnn s =>
  ⟨by simp [wordNNN_eq_encodeNNN, decode],
    fun h => ⟨_, exec_call_of_lt nnn s h, addr16_toNat nnn, rfl, Vector.getElem_set_self h,
      fun k hk => Vector.getElem_set_ne h k.isLt hk.symm, ((Frame.refl _ s).setStack rfl _ _).setPc _⟩,
    fun h => by
      rw [exec_call_of_full nnn s h, wordNNN_eq_encodeNNN]
      rfl⟩

/-- Settles O27: above 0 the pop moves SP alone, the slot keeping its value; at 0 it fails; and a pop undoes a push. -/
theorem returnGoesPastTheCall : Obligations.ReturnGoesPastTheCall :=
  ⟨rfl, fun s =>
    ⟨fun h => ⟨_, exec_ret_of_pos s h.ne', rfl, rfl, rfl, ((Frame.refl _ s).setStack rfl _ _).setPc _⟩,
      exec_ret_of_empty s, fun _ _ _ => exec_ret_after_call⟩⟩

end Sys2Proof.Machine
end

section
/-!
PROOFS. CLS (43_display.md R180).
-/

namespace Sys2Proof.Machine

/-- Settles O43: the execute phase writes the cleared framebuffer and advances `pc`, and each of the two keeps the frame. -/
theorem clearScreen : Obligations.ClearScreen :=
  ⟨rfl, fun s =>
    ⟨(s.setFb Framebuffer.clear).advance, rfl, State.pixel_eq_false rfl, rfl, ((Frame.refl _ s).setFb rfl _).advance⟩⟩

end Sys2Proof.Machine
end

section
/-!
PROOFS. Fx33, Fx55 and Fx65 (44_index_memory.md R202, R204, R206): an access that leaves memory is the fault of the table of
60_exceptions.md R242; where every byte exists, the block write or read says which byte lands where, and the instruction's
footprint is the frame.
-/

namespace Sys2Proof.Machine

/-! ### The two courses of an instruction, by the fault table -/

theorem exec_of_instrFault_some {i : Instr} {s : State} {r : FaultRecord} (h : instrFault s (encode i) i = some r) :
    exec i s = .next { s with fault := some r } := by
  rcases exec_cases i s with ⟨r', hr', hexec⟩ | ⟨hnone, -⟩
  · rwa [Option.some.inj (hr'.symm.trans h)] at hexec
  · exact nomatch hnone.symm.trans h

theorem frame_of_exec {i : Instr} {s t : State} (ht : exec i s = .next t) (h : instrFault s (encode i) i = none) :
    Frame (footprint s i) s t := by
  rcases exec_cases i s with ⟨r, hr, -⟩ | ⟨-, t', ht', hframe⟩
  · exact nomatch h.symm.trans hr
  · cases ht.symm.trans ht'
    exact hframe

theorem blockFault_of_lt (code : FaultCode) {s : State} (op : Word) {n : Nat} (hn : 0 < n) (h : 4096 < s.i.toNat + n) :
    blockFault code s op n = some (rangeFault code s op) :=
  if_pos ⟨hn, h⟩

theorem blockFault_of_le (code : FaultCode) {s : State} (op : Word) {n : Nat} (h : s.i.toNat + n ≤ 4096) :
    blockFault code s op n = none :=
  if_neg fun hlt => absurd hlt.2 (Nat.not_lt.2 h)

/-! ### Blocks of which every byte exists -/

/-- A block write changes memory alone, and its k-th byte lands at `I + k`. -/
theorem State.memWrites_of_le (s : State) (bs : List Byte) (h : s.i.toNat + bs.length ≤ 4096) :
    ∃ m, s.memWrites s.memBase bs = .ok { s with mem := m } ∧
      ∀ k (hk : k < bs.length), ({ s with mem := m } : State).readByte (s.i.toNat + k) = bs[k] := by
  obtain ⟨m, hm, hread, -⟩ := s.memWrites_ok s.i.toNat bs h
  refine ⟨m, hm, fun k hk => ?_⟩
  rw [hread, if_pos (Nat.le_add_right _ _), Nat.add_sub_cancel_left, List.getElem?_eq_getElem hk, Option.getD_some]

theorem State.memReads_of_le (s : State) (n : Nat) (h : s.i.toNat + n ≤ 4096) :
    s.memReads s.memBase n = .ok ((List.range n).map fun k => s.readByte (s.i.toNat + k)) := by
  rw [State.memReads_eq, State.memBase, if_pos (.inr h)]

@[simp] theorem State.writeRegBlock_pc (s : State) (k : Nat) (bs : List Byte) : (s.writeRegBlock k bs).pc = s.pc := by
  rw [State.writeRegBlock_eq]

/-- Writing a block to V0 and up puts its k-th byte in Vk. -/
theorem State.readV_writeRegBlock_zero (s : State) (bs : List Byte) (h : bs.length ≤ 16) (k : RegNo)
    (hk : k.val < bs.length) : (s.writeRegBlock 0 bs).readV k = bs[k.val] := by
  rw [State.readV_writeRegBlock s 0 bs (by omega), if_pos (Nat.zero_le _), Nat.sub_zero, List.getElem?_eq_getElem hk,
    Option.getD_some]

/-! ### The digits of a byte -/

@[simp] theorem bcdDigits_length (b : Byte) : (bcdDigits b).length = 3 := rfl

/-- Hundreds, tens and units are less than 256, so the bytes stored are the digits. -/
theorem bcdDigits_toNat (b : Byte) :
    (bcdDigits b)[0].toNat = b.toNat / 100 ∧ (bcdDigits b)[1].toNat = b.toNat / 10 % 10 ∧
      (bcdDigits b)[2].toNat = b.toNat % 10 := by
  have hb := b.isLt
  simp only [bcdDigits, List.getElem_cons_zero, List.getElem_cons_succ, BitVec.toNat_ofNat]
  omega

/-! ### What the three instructions do where every byte exists -/

theorem exec_ldB_of_le (x : RegNo) (s : State) (h : s.i.toNat + 3 ≤ 4096) :
    ∃ t, exec (.ldB x) s = .next t ∧ t.pc = s.pc + 2 ∧
      ∀ k (hk : k < 3), t.readByte (s.i.toNat + k) = (bcdDigits (s.readV x))[k] := by
  obtain ⟨m, hm, hread⟩ := s.memWrites_of_le (bcdDigits (s.readV x)) h
  exact ⟨State.advance { s with mem := m }, by simp only [exec, execLdB, hm], rfl, hread⟩

theorem exec_storeRegs_of_le (x : RegNo) (s : State) (h : s.i.toNat + (x.val + 1) ≤ 4096) :
    ∃ t, exec (.storeRegs x) s = .next t ∧ t.pc = s.pc + 2 ∧
      ∀ k : RegNo, k ≤ x → t.readByte (s.i.toNat + k.val) = s.readV k := by
  have hlen := s.regBlock_length x
  obtain ⟨m, hm, hread⟩ := s.memWrites_of_le (s.regBlock x) (by rwa [hlen])
  refine ⟨State.advance { s with mem := m }, by simp only [exec, execStoreRegs, hm], rfl, fun k hk => ?_⟩
  have hlt : k.val < (s.regBlock x).length := by rw [hlen]; exact Nat.lt_succ_of_le hk
  rw [State.advance_readByte, hread k.val hlt, State.regBlock_getElem]

theorem exec_loadRegs_of_le (x : RegNo) (s : State) (h : s.i.toNat + (x.val + 1) ≤ 4096) :
    ∃ t, exec (.loadRegs x) s = .next t ∧ t.pc = s.pc + 2 ∧
      ∀ k : RegNo, k ≤ x → t.readV k = s.readByte (s.i.toNat + k.val) := by
  have hbytes := s.memReads_of_le (x.val + 1) h
  refine ⟨_, by simp only [exec, execLoadRegs, blockLen, hbytes]; rfl, ?_, fun k hk => ?_⟩
  · rw [State.advance_pc, State.writeRegBlock_pc]
  · rw [State.advance_readV, State.readV_writeRegBlock_zero, List.getElem_map, List.getElem_range]
    · rw [List.length_map, List.length_range]
      exact x.isLt
    · rw [List.length_map, List.length_range]
      exact Nat.lt_succ_of_le hk

/-! ### The three obligations -/

/-- Settles O49: the block stored is the three digits, or the table's fault is the whole effect. -/
theorem storeDecimalDigits : Obligations.StoreDecimalDigits := by
  intro x s
  refine ⟨by simp [wordXKK_eq_encodeXKK, decode, decodeGroupF], fun h => ?_, fun h => ?_⟩
  · obtain ⟨t, ht, hpc, hread⟩ := exec_ldB_of_le x s h
    obtain ⟨hundreds, tens, units⟩ := bcdDigits_toNat (s.readV x)
    exact ⟨t, ht, (congrArg BitVec.toNat (hread 0 (by decide))).trans hundreds,
      (congrArg BitVec.toNat (hread 1 (by decide))).trans tens,
      (congrArg BitVec.toNat (hread 2 (by decide))).trans units, hpc,
      frame_of_exec ht (blockFault_of_le _ _ h)⟩
  · rw [wordXKK_eq_encodeXKK]
    exact exec_of_instrFault_some (blockFault_of_lt _ _ (by decide) (Nat.lt_succ_of_le h))

/-- Settles O50: the block stored is V0 to Vx, or the table's fault is the whole effect. -/
theorem storeRegisters : Obligations.StoreRegisters := by
  intro x s
  refine ⟨by simp [wordXKK_eq_encodeXKK, decode, decodeGroupF], fun h => ?_, fun h => ?_⟩
  · obtain ⟨t, ht, hpc, hread⟩ := exec_storeRegs_of_le x s h
    exact ⟨t, ht, hread, hpc, frame_of_exec ht (blockFault_of_le _ _ h)⟩
  · rw [wordXKK_eq_encodeXKK]
    exact exec_of_instrFault_some (blockFault_of_lt _ _ (Nat.succ_pos _) (Nat.lt_succ_of_le h))

/-- Settles O51: the block read fills V0 to Vx, or the table's fault is the whole effect. -/
theorem loadRegisters : Obligations.LoadRegisters := by
  intro x s
  refine ⟨by simp [wordXKK_eq_encodeXKK, decode, decodeGroupF], fun h => ?_, fun h => ?_⟩
  · obtain ⟨t, ht, hpc, hread⟩ := exec_loadRegs_of_le x s h
    exact ⟨t, ht, hread, hpc, frame_of_exec ht (blockFault_of_le _ _ h)⟩
  · rw [wordXKK_eq_encodeXKK]
    exact exec_of_instrFault_some (blockFault_of_lt _ _ (Nat.succ_pos _) (Nat.lt_succ_of_le h))

end Sys2Proof.Machine
end

section
/-!
PROOFS. The encoder and the decoder are inverse to each other: a word is what its fields make of it (30_encoding.md R81,
R82), group by group of the map (R84 to R88).
-/

namespace Sys2Proof.Machine

/-! ### A word is made of its fields -/

theorem encodeNNN_fields {op : Word} {g : BitVec 4} (hg : fieldG op = g) : encodeNNN g (fieldNNN op) = op := by
  subst hg
  apply BitVec.eq_of_toNat_eq
  rw [encodeNNN_toNat, fieldG_toNat, fieldNNN_toNat]
  omega

theorem encodeXKK_fields {op : Word} {g : BitVec 4} {kk : Byte} (hg : fieldG op = g) (hkk : fieldKK op = kk) :
    encodeXKK g (fieldX op) kk = op := by
  subst hg hkk
  apply BitVec.eq_of_toNat_eq
  rw [encodeXKK_toNat, fieldG_toNat, fieldX_val, fieldKK_toNat]
  omega

theorem encodeXYN_fields {op : Word} {g n : BitVec 4} (hg : fieldG op = g) (hn : fieldN op = n) :
    encodeXYN g (fieldX op) (fieldY op) n = op := by
  subst hg hn
  apply BitVec.eq_of_toNat_eq
  rw [encodeXYN_toNat, fieldG_toNat, fieldX_val, fieldY_val, fieldN_toNat]
  omega

/-! ### From an instruction to its word and back -/

/-- A well-formed SYS keeps clear of the two words that group 0 reads as CLS and RET (R85). -/
theorem decodeGroup0_encodeNNN {nnn : BitVec 12} (hcls : nnn ≠ 0x0E0#12) (hret : nnn ≠ 0x0EE#12) :
    decodeGroup0 (encodeNNN 0x0#4 nnn) = .sys nnn := by
  have hnnn := fieldNNN_encodeNNN 0x0#4 nnn
  rw [decodeGroup0, if_neg fun e => hcls (hnnn.symm.trans (congrArg fieldNNN e)),
    if_neg fun e => hret (hnnn.symm.trans (congrArg fieldNNN e)), hnnn]

/-- Settles O1: the fields of the encoding are the instruction's own, so the decoder's selectors pick its row of the map;
SYS is the one form that could be read as another. -/
theorem decodeOfEncodeIsIdentity : Obligations.DecodeOfEncodeIsIdentity := by
  intro i hwf
  cases i with
  | cls | ret => rfl
  | sys nnn =>
    obtain ⟨hcls, hret⟩ : nnn ≠ 0x0E0#12 ∧ nnn ≠ 0x0EE#12 := by simpa [Instr.wellFormed] using hwf
    simp [encode, decode, decodeGroup0_encodeNNN hcls hret]
  | jp | call | ldI | jpV0 | seImm | sneImm | ldImm | addImm | rnd | seReg | sneReg | drw => simp [encode, decode]
  | ldReg | orReg | andReg | xorReg | addReg | subReg | shr | subnReg | shl => simp [encode, decode, decodeGroup8]
  | skp | sknp => simp [encode, decode, decodeGroupE]
  | ldVxDt | ldVxK | ldDtVx | ldStVx | addI | ldF | ldB | storeRegs | loadRegs => simp [encode, decode, decodeGroupF]

/-- A statement's word that is the encoding of a well-formed instruction decodes to it. -/
theorem decode_wordNNN {g : Nat} {nnn : BitVec 12} {i : Instr} (he : encode i = encodeNNN (BitVec.ofNat 4 g) nnn)
    (hwf : i.wellFormed = true) : decode (wordNNN g nnn) = .ok i := by
  rw [wordNNN_eq_encodeNNN, ← he, decodeOfEncodeIsIdentity i hwf]

theorem decode_wordXKK {g : Nat} {x : RegNo} {kk : Byte} {i : Instr} (he : encode i = encodeXKK (BitVec.ofNat 4 g) x kk)
    (hwf : i.wellFormed = true) : decode (wordXKK g x kk) = .ok i := by
  rw [wordXKK_eq_encodeXKK, ← he, decodeOfEncodeIsIdentity i hwf]

theorem decode_wordXYN {g : Nat} {x y : RegNo} {n : BitVec 4} {i : Instr}
    (he : encode i = encodeXYN (BitVec.ofNat 4 g) x y n) (hwf : i.wellFormed = true) :
    decode (wordXYN g x y n) = .ok i := by
  rw [wordXYN_eq_encodeXYN, ← he, decodeOfEncodeIsIdentity i hwf]

/-! ### From a word to its instruction and back -/

/-- `i` is well-formed and `op` is its word. -/
def IsWordOf (op : Word) (i : Instr) : Prop := i.wellFormed = true ∧ encode i = op

theorem isWordOf_decodeGroup0 {op : Word} (hg : fieldG op = 0x0#4) : IsWordOf op (decodeGroup0 op) := by
  have hop := encodeNNN_fields hg
  rw [decodeGroup0]
  split_ifs with hcls hret
  · exact ⟨rfl, hcls.symm⟩
  · exact ⟨rfl, hret.symm⟩
  · have ne_of {a : BitVec 12} (h : op ≠ encodeNNN 0x0#4 a) : fieldNNN op ≠ a := fun e => h (by rw [← e, hop])
    have hne : fieldNNN op ≠ 0x0E0#12 ∧ fieldNNN op ≠ 0x0EE#12 := ⟨ne_of hcls, ne_of hret⟩
    exact ⟨by simpa [Instr.wellFormed] using hne, hop⟩

theorem isWordOf_of_decodeGroup8 {op : Word} {i : Instr} (hg : fieldG op = 0x8#4) (h : decodeGroup8 op = .ok i) :
    IsWordOf op i := by
  simp only [decodeGroup8] at h
  split_ifs at h with hn hn hn hn hn hn hn hn hn
  all_goals
    cases h
    exact ⟨rfl, encodeXYN_fields hg hn⟩

theorem isWordOf_of_decodeGroupE {op : Word} {i : Instr} (hg : fieldG op = 0xE#4) (h : decodeGroupE op = .ok i) :
    IsWordOf op i := by
  simp only [decodeGroupE] at h
  split_ifs at h with hkk hkk
  all_goals
    cases h
    exact ⟨rfl, encodeXKK_fields hg hkk⟩

theorem isWordOf_of_decodeGroupF {op : Word} {i : Instr} (hg : fieldG op = 0xF#4) (h : decodeGroupF op = .ok i) :
    IsWordOf op i := by
  simp only [decodeGroupF] at h
  split_ifs at h with hkk hkk hkk hkk hkk hkk hkk hkk hkk
  all_goals
    cases h
    exact ⟨rfl, encodeXKK_fields hg hkk⟩

/-- A word that decodes is the word of its instruction, outside the two groups that do not read the low nibble. -/
theorem isWordOf_of_decode {op : Word} {i : Instr} (h : decode op = .ok i) (h5 : fieldG op ≠ 0x5#4)
    (h9 : fieldG op ≠ 0x9#4) : IsWordOf op i := by
  rcases decode_groups op with hd | hd | hd | hd | hd | hd | hd | hd | hd | hd | hd | hd | hd | hd | hd | hd
  all_goals
    obtain ⟨hg, hd⟩ := hd
    rw [hd] at h
  · cases h; exact isWordOf_decodeGroup0 hg
  · cases h; exact ⟨rfl, encodeNNN_fields hg⟩
  · cases h; exact ⟨rfl, encodeNNN_fields hg⟩
  · cases h; exact ⟨rfl, encodeXKK_fields hg rfl⟩
  · cases h; exact ⟨rfl, encodeXKK_fields hg rfl⟩
  · exact absurd hg h5
  · cases h; exact ⟨rfl, encodeXKK_fields hg rfl⟩
  · cases h; exact ⟨rfl, encodeXKK_fields hg rfl⟩
  · exact isWordOf_of_decodeGroup8 hg h
  · exact absurd hg h9
  · cases h; exact ⟨rfl, encodeNNN_fields hg⟩
  · cases h; exact ⟨rfl, encodeNNN_fields hg⟩
  · cases h; exact ⟨rfl, encodeXKK_fields hg rfl⟩
  · cases h; exact ⟨rfl, encodeXYN_fields hg rfl⟩
  · exact isWordOf_of_decodeGroupE hg h
  · exact isWordOf_of_decodeGroupF hg h

theorem decode_of_group5 {op : Word} (hg : fieldG op = 0x5#4) : decode op = .ok (.seReg (fieldX op) (fieldY op)) := by
  simp [decode, hg]

theorem decode_of_group9 {op : Word} (hg : fieldG op = 0x9#4) : decode op = .ok (.sneReg (fieldX op) (fieldY op)) := by
  simp [decode, hg]

/-- With the low nibble not read, the encoding has it 0 (D14). -/
theorem encodeXYN_fields_zero {op : Word} {g : BitVec 4} (hg : fieldG op = g) :
    (encodeXYN g (fieldX op) (fieldY op) 0x0#4).toNat = op.toNat - op.toNat % 16 := by
  subst hg
  rw [encodeXYN_toNat, fieldG_toNat, fieldX_val, fieldY_val, BitVec.toNat_ofNat]
  omega

/-- Settles O2: groups 5 and 9 decode to the one instruction whose encoding has N = 0; elsewhere the word is its
instruction's. -/
theorem encodeOfDecodeGivesTheWord : Obligations.EncodeOfDecodeGivesTheWord := by
  intro op i h
  have group5 : op.toNat / 4096 = 5 ↔ fieldG op = 0x5#4 := by rw [← fieldG_toNat]; exact BitVec.toNat_inj (y := 0x5#4)
  have group9 : op.toNat / 4096 = 9 ↔ fieldG op = 0x9#4 := by rw [← fieldG_toNat]; exact BitVec.toNat_inj (y := 0x9#4)
  rw [Ne, Ne, group5, group9]
  by_cases h5 : fieldG op = 0x5#4
  · cases h.symm.trans (decode_of_group5 h5)
    exact ⟨rfl, fun _ => encodeXYN_fields_zero h5, fun hn => absurd h5 hn⟩
  by_cases h9 : fieldG op = 0x9#4
  · cases h.symm.trans (decode_of_group9 h9)
    exact ⟨rfl, fun _ => encodeXYN_fields_zero h9, fun _ hn => absurd h9 hn⟩
  obtain ⟨hwf, hword⟩ := isWordOf_of_decode h h5 h9
  exact ⟨hwf, fun hg => absurd hg (not_or.2 ⟨h5, h9⟩), fun _ _ => hword⟩

/-- Settles O3: the sixteen words, each by running the decoder. -/
theorem specWordsDecode : Obligations.SpecWordsDecode := by
  unfold Obligations.SpecWordsDecode
  decide

end Sys2Proof.Machine
end

section
/-!
PROOFS. The courses of a step, said once for every next state it can answer (30_encoding.md R92), and what follows of
faults and timers (60_exceptions.md R241 to R246, R250 to R252).
-/

namespace Sys2Proof.Machine

/-! ### The step by what it finds -/

theorem step_of_faulted {s : State} {r : FaultRecord} (h : s.fault = some r) : step s = .next s := by
  simp [step, issue, h]

theorem stepResult_of_faulted {s : State} {r : FaultRecord} (h : s.fault = some r) (t : State) :
    stepResult s t = .faulted r := by
  simp [stepResult, h]

theorem stepResult_eq_fault {s t : State} {r : FaultRecord} :
    stepResult s t = .fault r ↔ s.fault = none ∧ t.fault = some r := by
  cases hs : s.fault <;> cases ht : t.fault <;> simp [stepResult, hs, ht]

theorem step_of_held {s : State} {r : RegNo} (hf : s.fault = none) (hw : s.wait = some r) : step s = .next s.tick := by
  simp [step, issue, hf, hw]

theorem step_of_fetch_range {s : State} (hf : s.fault = none) (hw : s.wait = none) (hpc : 4096 ≤ s.pc.toNat + 1) :
    step s = .next { s with fault := some (fetchFault s) } := by
  have hissue : issue s = .settled { s with fault := some (fetchFault s) } := by
    simp [issue, hf, hw, State.fetch_error s hpc, State.raise, fetchFault]
  rw [step, hissue]

theorem Fetches.step_of_error {s : State} {op : Word} {u : Unmapped} (h : Fetches s op) (hd : decode op = .error u) :
    step s = .next (ignoredWord s) := by
  rw [step, h.issue_of_error hd]

theorem Fetches.step_of_ok {s t : State} {op : Word} {i : Instr} (h : Fetches s op) (hd : decode op = .ok i)
    (ht : exec i s = .next t) : step s = .next (finish t) := by
  simp only [step, h.issue_of_ok hd, ht]

theorem exec_next (i : Instr) (s : State) : ∃ t, exec i s = .next t := by
  rcases exec_cases i s with ⟨r, -, ht⟩ | ⟨-, t, ht, -⟩
  · exact ⟨_, ht⟩
  · exact ⟨t, ht⟩

/-- The instructions that can fault have one word each, so the record's word is the fetched one (log entry 13). -/
theorem instrFault_encode {op : Word} {i : Instr} (s : State) (h : decode op = .ok i) :
    instrFault s (encode i) i = instrFault s op i := by
  by_cases h5 : fieldG op = 0x5#4
  · cases h.symm.trans (decode_of_group5 h5)
    rfl
  by_cases h9 : fieldG op = 0x9#4
  · cases h.symm.trans (decode_of_group9 h9)
    rfl
  rw [(isWordOf_of_decode h h5 h9).2]

theorem footprint_faultReg (s : State) (i : Instr) : (footprint s i).faultReg = false := by cases i <;> rfl

/-- The two courses of a step that executes an instruction, by the fault table. -/
theorem Fetches.step_cases {s : State} {op : Word} {i : Instr} (h : Fetches s op) (hd : decode op = .ok i) :
    (∃ r, instrFault s op i = some r ∧ step s = .next { s with fault := some r }) ∨
    (instrFault s op i = none ∧
      ∃ u, exec i s = .next u ∧ Frame (footprint s i) s u ∧ u.fault = none ∧ step s = .next u.tick) := by
  rw [← instrFault_encode s hd]
  rcases exec_cases i s with ⟨r, hr, ht⟩ | ⟨hr, u, hu, hframe⟩
  · exact .inl ⟨r, hr, h.step_of_ok hd ht⟩
  · have hfault : u.fault = none := (hframe.faultReg (footprint_faultReg s i)).trans h.not_faulted
    exact .inr ⟨hr, u, hu, hframe, hfault, by rw [h.step_of_ok hd hu, finish_of_no_fault hfault]⟩

/-- Settles O5: an instruction answers a next state, and the end of the step is that state or its tick. -/
theorem stepRunsTheDecodedInstruction : Obligations.StepRunsTheDecodedInstruction := by
  intro s op i hf hd
  obtain ⟨t, ht⟩ := exec_next i s
  refine ⟨t, finish t, ht, hf.step_of_ok hd ht, finish_of_fault, fun hn => ⟨finish_eq t, ?_⟩⟩
  rw [finish_of_no_fault hn]
  exact ⟨countDown_toNat t.dt, countDown_toNat t.st⟩

/-- Settles O12: the step's two courses are the fault table's, and a refused word leaves FAULT as it was. -/
theorem faultsHaveTheirCauses : Obligations.FaultsHaveTheirCauses := by
  intro s t op hf ht
  refine ⟨fun i hd => ?_, fun u hd => ?_⟩
  · rcases hf.step_cases hd with ⟨r, hr, hstep⟩ | ⟨hr, u, -, -, hu, hstep⟩
    all_goals cases ht.symm.trans hstep
    · exact hr.symm
    · exact hu.trans hr.symm
  · cases ht.symm.trans (hf.step_of_error hd)
    exact hf.not_faulted

/-- Settles O9: a fetch past the end raises FetchRange, whose record is the one named. -/
theorem fetchOutOfRangeFaults : Obligations.FetchOutOfRangeFaults :=
  fun _ hf hw hpc => step_of_fetch_range hf hw (Nat.succ_le_succ hpc)

/-! ### The records -/

/-- The first address out of range of a block at `I` is max(I, 4096). -/
theorem blockFault_eq_some {code : FaultCode} {s : State} {op : Word} {n : Nat} {r : FaultRecord}
    (h : blockFault code s op n = some r) : rangeFault code s op = r :=
  Option.some.inj (Option.ite_none_right_eq_some.1 h).2

theorem instrFault_fits {s : State} {op : Word} {i : Instr} {r : FaultRecord} (h : instrFault s op i = some r) :
    r.Fits s := by
  cases i with
  | drw | loadRegs | ldB | storeRegs =>
    cases blockFault_eq_some h
    exact ⟨rfl, rfl, rfl⟩
  | call | ret =>
    obtain ⟨hsp, hr⟩ := Option.ite_none_right_eq_some.1 h
    cases hr
    exact ⟨rfl, rfl, rfl, hsp⟩
  | _ => cases h

theorem fetchFault_fits {s : State} (h : 4096 ≤ s.pc.toNat + 1) : (fetchFault s).Fits s := ⟨rfl, rfl, h⟩

/-! ### The next states of a step -/

/-- What a step from `s` can answer. -/
inductive StepEffect (s : State) : State → Prop
  /-- A faulted core stays as it is (R246). -/
  | stuck (h : s.fault.isSome = true) : StepEffect s s
  /-- A core held by WAIT only ticks (R252). -/
  | held (hf : s.fault = none) (hw : s.wait.isSome = true) : StepEffect s s.tick
  /-- A fault writes FAULT alone (R241). -/
  | faults (r : FaultRecord) (hf : s.fault = none) (hw : s.wait = none) (hr : r.Fits s) :
    StepEffect s { s with fault := some r }
  /-- An unmapped word only advances and ticks (R86). -/
  | ignored (op : Word) (u : Unmapped) (hf : Fetches s op) (hd : decode op = .error u) : StepEffect s (ignoredWord s)
  /-- An instruction that does not fault stays within its footprint; the tick follows it (R91, R250). -/
  | executed (i : Instr) (t : State) (hi : Executes s i) (hn : instrFault s (encode i) i = none)
    (ht : exec i s = .next t) (hframe : Frame (footprint s i) s t) (hf : t.fault = none) : StepEffect s t.tick

theorem exists_stepEffect (s : State) : ∃ t, step s = .next t ∧ StepEffect s t := by
  rcases step_cases s with ⟨hf, hs⟩ | ⟨hf, hw, hs⟩ | ⟨hf, hw, hpc, hs⟩ | ⟨op, u, ho, hd, hs⟩ | ⟨op, i, ho, hd, -⟩
  · exact ⟨s, hs, .stuck hf⟩
  · exact ⟨s.tick, hs, .held hf hw⟩
  · exact ⟨_, hs, .faults (fetchFault s) hf hw (fetchFault_fits hpc)⟩
  · exact ⟨ignoredWord s, hs, .ignored op u ho hd⟩
  · rcases ho.step_cases hd with ⟨r, hr, hs⟩ | ⟨hr, u, hu, hframe, hf, hs⟩
    · exact ⟨_, hs, .faults r ho.not_faulted ho.not_held (instrFault_fits hr)⟩
    · exact ⟨u.tick, hs, .executed i u ⟨op, ho, hd⟩ ((instrFault_encode s hd).trans hr) hu hframe hf⟩

theorem stepEffect_of_step {s t : State} (h : step s = .next t) : StepEffect s t := by
  obtain ⟨u, hu, he⟩ := exists_stepEffect s
  cases h.symm.trans hu
  exact he

/-- Settles O6: each of the courses of a step ends in a state. -/
theorem stepAlwaysAnswersNext : Obligations.StepAlwaysAnswersNext := fun s =>
  let ⟨t, ht, _⟩ := exists_stepEffect s
  ⟨t, ht⟩

/-- Settles O11: of the effects of a step only the fault sets FAULT where it was clear. -/
theorem faultingStepChangesOnlyFault : Obligations.FaultingStepChangesOnlyFault := by
  intro s t r hs ht hr
  cases stepEffect_of_step ht with
  | stuck | held => cases hs.symm.trans hr
  | faults r' _ _ hfits =>
    cases hr
    exact ⟨rfl, hfits.1, stepResult_eq_fault.2 ⟨hs, rfl⟩⟩
  | ignored op u hf => cases hf.not_faulted.symm.trans hr
  | executed i u _ _ _ _ hf => cases hf.symm.trans hr

/-! ### The timers -/

theorem Executes.unique {s : State} {i j : Instr} (hi : Executes s i) (hj : Executes s j) : i = j := by
  obtain ⟨op, hop, hdi⟩ := hi
  obtain ⟨op', hop', hdj⟩ := hj
  cases hop.unique hop'
  exact Except.ok.inj (hdi.symm.trans hdj)

/-- A step that executes an instruction which leaves FAULT clear ends in the instruction's state, ticked. -/
theorem Executes.step {s t : State} {i : Instr} (h : Executes s i) (ht : exec i s = .next t) (hf : t.fault = none) :
    step s = .next t.tick := by
  obtain ⟨op, hop, hd⟩ := h
  rw [hop.step_of_ok hd ht, finish_of_no_fault hf]

theorem Executes.not_faulted {s : State} {i : Instr} (h : Executes s i) : s.fault = none :=
  let ⟨_, hop, _⟩ := h
  hop.not_faulted

/-- Fx15 alone writes DT (R22, G5). -/
theorem footprint_delay (s : State) {i : Instr} (h : ∀ x, i ≠ .ldDtVx x) : (footprint s i).delay = false := by
  cases i with
  | ldDtVx x => exact absurd rfl (h x)
  | _ => rfl

/-- Fx18 alone writes ST (R22, G5). -/
theorem footprint_sound (s : State) {i : Instr} (h : ∀ x, i ≠ .ldStVx x) : (footprint s i).sound = false := by
  cases i with
  | ldStVx x => exact absurd rfl (h x)
  | _ => rfl

/-- A step that leaves FAULT clear ends in a tick, of timers that only Fx15 and Fx18 wrote. -/
theorem StepEffect.ticks {s t : State} (h : StepEffect s t) (hs : s.fault = none) (hf : t.fault = none) :
    ∃ u : State, t = u.tick ∧ ((∀ x, ¬ Executes s (.ldDtVx x)) → u.dt = s.dt) ∧
      ((∀ x, ¬ Executes s (.ldStVx x)) → u.st = s.st) := by
  cases h with
  | stuck h => simp [hs] at h
  | held => exact ⟨s, rfl, fun _ => rfl, fun _ => rfl⟩
  | faults => cases hf
  | ignored => exact ⟨s.advance, rfl, fun _ => rfl, fun _ => rfl⟩
  | executed i u hi _ _ hframe =>
    exact ⟨u, rfl, fun hno => hframe.delay (footprint_delay s fun x hx => hno x (hx ▸ hi)),
      fun hno => hframe.sound (footprint_sound s fun x hx => hno x (hx ▸ hi))⟩

/-- Settles O13: Fx15 and Fx18 leave in their timer the value that the tick counts down from; without them the tick
counts down from the old one. -/
theorem timersTickOncePerStep : Obligations.TimersTickOncePerStep := by
  intro s t hs ht hf
  obtain ⟨u, hu, hdt, hst⟩ := (stepEffect_of_step ht).ticks hs hf
  refine ⟨fun x hx => ?_, fun x hx => ?_, fun hno => ?_, fun hno => ?_⟩
  · cases ht.symm.trans (hx.step (t := (s.setDT (s.readV x)).advance) rfl hs)
    exact countDown_toNat (s.readV x)
  · cases ht.symm.trans (hx.step (t := (s.setST (s.readV x)).advance) rfl hs)
    exact countDown_toNat (s.readV x)
  · rw [hu, ← hdt hno]
    exact countDown_toNat u.dt
  · rw [hu, ← hst hno]
    exact countDown_toNat u.st

/-- Settles O14: the jump writes the `pc` that stands there, so the tick is the whole effect, and the ticked state fetches
the same word. -/
theorem idleLoopOnlyTicks : Obligations.IdleLoopOnlyTicks := by
  rintro s ⟨nnn, hjp, hself⟩
  have hpc : addr16 nnn = s.pc := BitVec.eq_of_toNat_eq ((addr16_toNat nnn).trans hself)
  have hexec : exec (.jp nnn) s = .next s := by
    show Host.Outcome.next { s with pc := addr16 nnn } = .next s
    rw [hpc]
  refine ⟨s.tick, hjp.step hexec hjp.not_faulted, rfl, countDown_toNat s.dt, countDown_toNat s.st,
    (Frame.refl _ s).tick rfl rfl, nnn, ?_, hself⟩
  obtain ⟨op, ⟨hf, hw, hrange, hbytes⟩, hd⟩ := hjp
  exact ⟨op, ⟨hf, hw, hrange, hbytes⟩, hd⟩

end Sys2Proof.Machine
end

section
/-!
PROOFS. Who may write what in a step: a change of anything but `pc`, the timers and FAULT lies in the footprint of the
instruction executed (10_state.md R22, R30, R38; 20_memory.md R71).
-/

namespace Sys2Proof.Machine

/-- A step changes no more than `pc`, the timers and FAULT, or it executes an instruction that does not fault and stays
within its footprint. -/
theorem StepEffect.frame_or_executed {s t : State} (h : StepEffect s t) :
    Frame { delay := true, sound := true, faultReg := true } s t ∨
    ∃ i u, Executes s i ∧ instrFault s (encode i) i = none ∧ exec i s = .next u ∧ Frame (footprint s i) s u ∧
      t = u.tick := by
  cases h with
  | stuck => exact .inl (Frame.refl _ s)
  | held => exact .inl ((Frame.refl _ s).tick rfl rfl)
  | faults r => exact .inl { Frame.refl _ s with faultReg := nofun }
  | ignored => exact .inl ((Frame.refl _ s).advance.tick rfl rfl)
  | executed i u hi hn hu hframe => exact .inr ⟨i, u, hi, hn, hu, hframe, rfl⟩

/-! ### The footprints, field by field -/

theorem writesReg_of_mem_footprint {s : State} {i : Instr} {r : RegNo} (h : r ∈ (footprint s i).regs) :
    writesReg i r := by
  cases i with
  | ldImm | addImm | ldReg | orReg | andReg | xorReg | rnd | ldVxDt | drw => exact List.mem_singleton.1 h
  | addReg | subReg | shr | subnReg | shl => exact (List.mem_cons.1 h).imp_right List.mem_singleton.1
  | loadRegs x => exact (of_decide_eq_true (List.mem_filter.1 h).2 : r ≤ x)
  | _ => cases h

theorem footprint_index {s : State} {i : Instr} (h : (footprint s i).index = true) :
    (∃ nnn, i = .ldI nnn) ∨ (∃ x, i = .addI x) ∨ ∃ x, i = .ldF x := by
  cases i with
  | ldI nnn => exact .inl ⟨nnn, rfl⟩
  | addI x => exact .inr (.inl ⟨x, rfl⟩)
  | ldF x => exact .inr (.inr ⟨x, rfl⟩)
  | _ => cases h

theorem footprint_stack {s : State} {i : Instr} (h : (footprint s i).stack = true) :
    (∃ nnn, i = .call nnn) ∨ i = .ret := by
  cases i with
  | call nnn => exact .inl ⟨nnn, rfl⟩
  | ret => exact .inr rfl
  | _ => cases h

theorem footprint_screen {s : State} {i : Instr} (h : (footprint s i).screen = true) :
    i = .cls ∨ ∃ x y n, i = .drw x y n := by
  cases i with
  | cls => exact .inl rfl
  | drw x y n => exact .inr ⟨x, y, n, rfl⟩
  | _ => cases h

theorem footprint_waitReg {s : State} {i : Instr} (h : (footprint s i).waitReg = true) :
    s.keyWaitMode = .wait ∧ ∃ x, i = .ldVxK x := by
  cases i with
  | ldVxK x => exact ⟨eq_of_beq h, x, rfl⟩
  | _ => cases h

theorem footprint_keys (s : State) (i : Instr) : (footprint s i).keys = false := by cases i <;> rfl

theorem footprint_mem {s : State} {i : Instr} {a : Nat}
    (h : (footprint s i).memBase ≤ a ∧ a < (footprint s i).memBase + (footprint s i).memLen) :
    s.i.toNat ≤ a ∧ ((∃ x, i = .ldB x ∧ a < s.i.toNat + 3) ∨ ∃ x, i = .storeRegs x ∧ a < s.i.toNat + (x.val + 1)) := by
  cases i with
  | ldB x => exact ⟨h.1, .inl ⟨x, rfl, h.2⟩⟩
  | storeRegs x => exact ⟨h.1, .inr ⟨x, rfl, h.2⟩⟩
  | _ => exact absurd h.2 (Nat.not_lt_zero a)

theorem le_of_blockFault_eq_none {code : FaultCode} {s : State} {op : Word} {n : Nat}
    (h : blockFault code s op (n + 1) = none) : s.i.toNat + (n + 1) ≤ 4096 :=
  Nat.not_lt.1 fun hlt => nomatch h.symm.trans (blockFault_of_lt code op n.succ_pos hlt)

theorem exec_ldVxK_of_wait (x : RegNo) {s : State} (h : s.keyWaitMode = .wait) :
    exec (.ldVxK x) s = .next (s.setWait (some x)).advance := by
  simp only [exec, execLdVxK, h]

/-! ### The writers -/

/-- Settles O15: the registers of a footprint are those of the table of R22. -/
theorem registersChangeOnlyByTheirWriters : Obligations.RegistersChangeOnlyByTheirWriters := by
  intro s t r ht hne
  rcases (stepEffect_of_step ht).frame_or_executed with hsame | ⟨i, u, hi, -, -, hframe, rfl⟩
  · exact absurd (hsame.regs r List.not_mem_nil) hne
  · exact ⟨i, hi, writesReg_of_mem_footprint (not_not.1 fun hr => hne (hframe.regs r hr))⟩

/-- Settles O16: three footprints hold `I`, and two the stack. -/
theorem indexAndStackHaveTheirWriters : Obligations.IndexAndStackHaveTheirWriters := by
  intro s t ht
  rcases (stepEffect_of_step ht).frame_or_executed with hsame | ⟨i, u, hi, -, -, hframe, rfl⟩
  · obtain ⟨hsp, hstack⟩ := hsame.stack rfl
    exact ⟨fun hne => absurd (hsame.index rfl) hne, fun hne => hne.elim (absurd hsp) (absurd hstack)⟩
  refine ⟨fun hne => ?_, fun hne => ?_⟩
  · rcases footprint_index (Bool.of_not_eq_false fun h => hne (hframe.index h)) with ⟨nnn, rfl⟩ | ⟨x, rfl⟩ | ⟨x, rfl⟩
    · exact .inl ⟨nnn, hi⟩
    · exact .inr (.inl ⟨x, hi⟩)
    · exact .inr (.inr ⟨x, hi⟩)
  · have hwrites : (footprint s i).stack = true := Bool.of_not_eq_false fun h =>
      let ⟨hsp, hstack⟩ := hframe.stack h
      hne.elim (absurd hsp) (absurd hstack)
    rcases footprint_stack hwrites with ⟨nnn, rfl⟩ | rfl
    · exact .inl ⟨nnn, hi⟩
    · exact .inr hi

/-- Settles O17: two footprints hold bytes of memory, and without a fault every one of them exists. -/
theorem memoryChangesOnlyByStores : Obligations.MemoryChangesOnlyByStores := by
  intro s t a ht hne
  rcases (stepEffect_of_step ht).frame_or_executed with hsame | ⟨i, u, hi, hn, -, hframe, rfl⟩
  · exact absurd (hsame.mem a fun h => Nat.not_lt_zero a h.2) hne
  obtain ⟨hlow, ⟨x, rfl, hlt⟩ | ⟨x, rfl, hlt⟩⟩ := footprint_mem (not_not.1 fun h => hne (hframe.mem a h))
  all_goals have hle := le_of_blockFault_eq_none hn
  · exact ⟨by omega, hlow, .inl ⟨x, hi, by omega⟩⟩
  · exact ⟨by omega, hlow, .inr ⟨x, hi, by omega⟩⟩

/-- Settles O18: two footprints hold the framebuffer, Fx0A's holds WAIT in mode `wait` alone, and none the latch. -/
theorem screenLatchAndWaitHaveTheirWriters : Obligations.ScreenLatchAndWaitHaveTheirWriters := by
  intro s t ht
  rcases (stepEffect_of_step ht).frame_or_executed with hsame | ⟨i, u, hi, -, hu, hframe, rfl⟩
  · exact ⟨fun c r hne => absurd (hsame.screen rfl c r) hne, fun hne => absurd (hsame.waitReg rfl) hne, hsame.keys rfl,
      hsame.font, hsame.keyWaitMode⟩
  refine ⟨fun c r hne => ?_, fun hne => ?_, hframe.keys (footprint_keys s i), hframe.font, hframe.keyWaitMode⟩
  · rcases footprint_screen (Bool.of_not_eq_false fun h => hne (hframe.screen h c r)) with rfl | ⟨x, y, n, rfl⟩
    · exact .inl hi
    · exact .inr ⟨x, y, n, hi⟩
  · obtain ⟨hmode, x, rfl⟩ := footprint_waitReg (Bool.of_not_eq_false fun h => hne (hframe.waitReg h))
    cases hu.symm.trans (exec_ldVxK_of_wait x hmode)
    exact ⟨hmode, x, hi, rfl⟩

end Sys2Proof.Machine
end

section
/-!
PROOFS. `setKey`, `loadROM`, `reset`, `getScreen` and construction (60_exceptions.md R246, R252, R263, R264;
70_reset_and_hazards.md R280 to R283), and Fx0A, whose wait a key press ends (45_timers_keys.md R224, R226).
-/

namespace Sys2Proof.Machine

/-! ### What `setKey` does -/

/-- An index is a key's or it is rejected (D26). -/
theorem keyIndex_cases (index : Int) : (∃ k : Fin 16, index = k.val) ∨ index < 0 ∨ 16 ≤ index := by
  by_cases h : 0 ≤ index ∧ index < 16
  · exact .inl ⟨⟨index.toNat, by omega⟩, (Int.toNat_of_nonneg h.1).symm⟩
  · exact .inr (by omega)

theorem State.setKey_val (s : State) (k : Fin 16) (pressed : Bool) :
    s.setKey k.val pressed = (.ok, (s.setKeyFlag k pressed).releaseWait k pressed) :=
  dif_pos (⟨Int.natCast_nonneg _, by omega⟩ : 0 ≤ (k.val : Int) ∧ (k.val : Int) < 16)

theorem State.setKey_of_invalid (s : State) {index : Int} (pressed : Bool) (h : index < 0 ∨ 16 ≤ index) :
    s.setKey index pressed = (.keyIndexInvalid, s) :=
  dif_neg (by omega)

/-- The flag set reads back, and the other flags stay. -/
theorem State.setKeyFlag_latch (s : State) (k : Fin 16) (pressed : Bool) :
    (s.setKeyFlag k pressed).keys[k] = pressed ∧ ∀ j : Fin 16, j ≠ k → (s.setKeyFlag k pressed).keys[j] = s.keys[j] :=
  ⟨Vector.getElem_set_self k.isLt, fun j hj => Vector.getElem_set_ne k.isLt j.isLt (Fin.val_ne_of_ne hj.symm)⟩

/-- A release, or a press that nothing waits for, sets its flag alone. -/
theorem State.setKey_of_idle {s : State} (k : Fin 16) {pressed : Bool} (h : s.wait = none ∨ pressed = false) :
    s.setKey k.val pressed = (.ok, s.setKeyFlag k pressed) := by
  rw [State.setKey_val, State.releaseWait]
  rintro r rfl hr
  rw [State.setKeyFlag_wait] at hr
  simp [hr] at h

/-- A press also ends a wait: the waiting register takes the index (R263). -/
theorem State.setKey_of_waiting {s : State} {r : RegNo} (k : Fin 16) (h : s.wait = some r) :
    s.setKey k.val true = (.ok, ((s.setKeyFlag k true).writeV r (BitVec.ofNat 8 k.val)).setWait none) := by
  rw [State.setKey_val, State.releaseWait]
  simp [h]

/-- What the waiting register reads after the press: a key's index fits in a byte. -/
theorem State.setKey_waiting_readV {s : State} {r : RegNo} (k : Fin 16) (h : s.wait = some r) :
    ((s.setKey k.val true).2.readV r).toNat = k.val := by
  rw [State.setKey_of_waiting k h, State.setWait_readV, State.readV_writeV_same, BitVec.toNat_ofNat]
  omega

theorem State.setKey_waiting_wait {s : State} {r : RegNo} (k : Fin 16) (h : s.wait = some r) :
    (s.setKey k.val true).2.wait = none := by
  rw [State.setKey_of_waiting k h, State.setWait_wait]

/-- Settles O54: a press that a register waits for writes that register and WAIT over the flag; every other valid call
writes the flag alone. -/
theorem setKeyLatchesAndReleases : Obligations.SetKeyLatchesAndReleases := by
  refine fun s index pressed => ⟨?_, s.setKey_of_invalid pressed⟩
  rintro k rfl
  obtain ⟨hset, hkeep⟩ := s.setKeyFlag_latch k pressed
  have hcases : (s.wait = none ∨ pressed = false) ∨ ∃ r, s.wait = some r ∧ pressed = true := by
    cases s.wait <;> cases pressed <;> simp
  rcases hcases with h | ⟨r, hr, rfl⟩
  · rw [State.setKey_of_idle k h]
    refine ⟨rfl, rfl, hset, hkeep, fun _ => (Frame.refl _ s).setKeyFlag rfl k pressed, fun r hr hp => ?_⟩
    simp [hr, hp] at h
  · have hread := State.setKey_waiting_readV k hr
    rw [State.setKey_of_waiting k hr] at hread ⊢
    refine ⟨rfl, rfl, hset, hkeep, fun h => by simp [hr] at h, fun r' hr' _ => ?_⟩
    cases hr.symm.trans hr'
    exact ⟨hread, rfl, (((Frame.refl _ s).setKeyFlag rfl k true).writeV List.mem_cons_self _).setWait rfl none⟩

/-! ### What `loadROM` does -/

theorem State.loadROM_of_lt (s : State) {bytes : List Byte} (h : Config.maxRom < bytes.length) :
    s.loadROM bytes = (.romTooLarge, s) :=
  if_pos h

/-- A successful load is `reset` with another memory, canonical if the old one was. -/
theorem State.loadROM_ok (s : State) {bytes : List Byte} (h : bytes.length ≤ Config.maxRom) :
    ∃ m, s.loadROM bytes = (.ok, { s.resetOp with mem := m }) ∧ (Memory.wf s.font s.mem → Memory.wf s.font m) := by
  obtain ⟨m, hm, -, hwf⟩ := s.writeImage_ok Config.programBase bytes
    (by simp only [Config.programBase, Config.maxRom] at h ⊢; omega)
  exact ⟨m, by rw [s.loadROM_of_le h, hm]; rfl, hwf⟩

/-- Settles O55: a load that fits writes the image's bytes over memory and resets the rest. -/
theorem loadRomWritesAndResets : Obligations.LoadRomWritesAndResets := by
  refine fun s bytes => ⟨fun h => ?_, s.loadROM_of_lt⟩
  obtain ⟨m, hload, -⟩ := s.loadROM_ok h
  have hread := s.loadROM_readByte h
  rw [hload] at hread
  refine ⟨_, hload, fun k hk => ?_, fun a ha => ?_, rfl⟩
  · rw [hread, if_pos (Nat.le_add_right _ _), Nat.add_sub_cancel_left, List.getElem?_eq_getElem hk, Option.getD_some]
  · rw [hread]
    split
    · rw [List.getElem?_eq_none (by omega), Option.getD_none]
    · rfl

/-! ### Operations on a faulted and on a waiting core -/

/-- Settles O7: the step stops at FAULT, a press finds no wait to end, and `reset`, alone or in a load, clears FAULT. -/
theorem faultedCoreIsSticky : Obligations.FaultedCoreIsSticky := by
  intro s r hf
  refine ⟨step_of_faulted hf, stepResult_of_faulted hf s, fun hw index pressed => ?_, rfl,
    fun bytes h => s.loadROM_fault h, fun bytes h => by rw [s.loadROM_of_lt h]⟩
  rcases keyIndex_cases index with ⟨k, rfl⟩ | h
  · rw [State.setKey_of_idle k (.inl hw)]
    rfl
  · rw [s.setKey_of_invalid pressed h]

/-- Settles O8: the step stops at WAIT and ticks; a press, `reset` and a load clear WAIT, a release does not. -/
theorem heldStepOnlyTicks : Obligations.HeldStepOnlyTicks := by
  intro s r hf hw
  refine ⟨⟨s.tick, step_of_held hf hw, by simp [stepResult, hf], rfl, countDown_toNat s.dt, countDown_toNat s.st,
    (Frame.refl _ s).tick rfl rfl⟩, fun index => ?_, fun index hlow hhigh => ?_, rfl, fun bytes h => ?_⟩
  · rcases keyIndex_cases index with ⟨k, rfl⟩ | h
    · rw [State.setKey_of_idle k (.inr rfl)]
      exact hw
    · rw [s.setKey_of_invalid false h]
      exact hw
  · rcases keyIndex_cases index with ⟨k, rfl⟩ | h
    · exact State.setKey_waiting_wait k hw
    · omega
  · rw [s.loadROM_of_le h]
    rfl

theorem exec_ldVxK_of_noop (x : RegNo) {s : State} (h : s.keyWaitMode = .noop) :
    exec (.ldVxK x) s = .next s.advance := by
  simp only [exec, execLdVxK, h]

/-- Settles O53: the two modes of Fx0A, and the press that ends the wait it set. -/
theorem keyWait : Obligations.KeyWait := fun x s =>
  ⟨decode_wordXKK rfl rfl,
    fun hmode => ⟨s.advance, exec_ldVxK_of_noop x hmode, rfl, (Frame.refl _ s).advance⟩,
    fun hmode => ⟨(s.setWait (some x)).advance, exec_ldVxK_of_wait x hmode, rfl, rfl,
      ((Frame.refl _ s).setWait rfl _).advance,
      fun k => ⟨State.setKey_waiting_readV k rfl, State.setKey_waiting_wait k rfl⟩⟩⟩

/-! ### Reset and construction -/

/-- No key is pressed in a latch of zeros. -/
theorem State.key_eq_false {s : State} (h : s.keys = Vector.replicate 16 false) (k : Nat) : s.key k = false := by
  rw [State.key, h]
  by_cases hk : k < 16 <;> simp [hk]

/-- Settles O56: the reset list is the record update, and what it does not name stays. -/
theorem resetGivesTheResetState : Obligations.ResetGivesTheResetState := fun s =>
  ⟨s.resetOp_readV, rfl, rfl, rfl, rfl, rfl, State.key_eq_false rfl, s.resetOp_pixel, rfl, rfl, s.resetOp_readByte, rfl,
    rfl, rfl, rfl, rfl⟩

/-- Memory after construction lists no cell. -/
theorem State.construct_readByte (font : Font) (mode : KeyWaitMode) (a : Nat) :
    (State.construct font mode).readByte a = font[a]?.getD 0 := rfl

theorem State.construct_readByte_of_le (font : Font) (mode : KeyWaitMode) {a : Nat} (h : 80 ≤ a) :
    (State.construct font mode).readByte a = 0 := by
  rw [State.construct_readByte, Vector.getElem?_eq_none h, Option.getD_none]

/-- Zeroed memory at 0x200 holds the word 0x0000. -/
theorem construct_fetches (font : Font) (mode : KeyWaitMode) : Fetches (State.construct font mode) 0x0000#16 where
  not_faulted := rfl
  not_held := rfl
  in_range := (by decide : 0x200 + 1 < 4096)
  bytes := by
    have hpc : (State.construct font mode).pc.toNat = 0x200 := rfl
    rw [hpc, State.construct_readByte_of_le _ _ (by decide), State.construct_readByte_of_le _ _ (by decide)]
    rfl

/-- Settles O58: the font lies below 0x050; the first word fetched is an ignored one; the timers it ticks are 0. -/
theorem constructedStateRunsZeroedMemory : Obligations.ConstructedStateRunsZeroedMemory := by
  intro font mode
  have hword : IsIgnoredWord 0x0000#16 := .inr (.inr (.inr (by decide)))
  refine ⟨fun k => ?_, fun a => State.construct_readByte_of_le font mode, rfl, rfl, fun k => Vector.getElem_replicate _,
    State.key_eq_false rfl, rfl, rfl, ignoredWord _, (construct_fetches font mode).step_of_isIgnoredWord hword, rfl, ?_⟩
  · rw [State.construct_readByte, Vector.getElem?_eq_getElem k.isLt]
    rfl
  · exact { ignoredWord_frame _ with delay := fun _ => rfl, sound := fun _ => rfl }

/-! ### The screen -/

/-- An element of the concatenation of blocks of one length. -/
theorem getElem?_flatMap_block {α β : Type} {l : List α} {f : α → List β} {n : Nat} (hf : ∀ a, (f a).length = n)
    {c : Nat} (hc : c < n) (r : Nat) : (l.flatMap f)[r * n + c]? = l[r]?.bind fun a => (f a)[c]? := by
  induction l generalizing r with
  | nil => rfl
  | cons a l ih =>
    rw [List.flatMap_cons]
    cases r with
    | zero => rw [Nat.zero_mul, Nat.zero_add, List.getElem?_append_left (by rwa [hf])]; rfl
    | succ r =>
      rw [List.getElem?_append_right (by rw [hf, Nat.succ_mul]; omega), hf, Nat.succ_mul,
        show r * n + n + c - n = r * n + c by omega, ih]
      rfl

/-- Settles O59: 32 rows of 64 cells each, one after another. -/
theorem getScreenIsRowMajor : Obligations.GetScreenIsRowMajor := by
  refine fun s => ⟨by simp [State.getScreen], fun c r => ?_⟩
  rw [State.getScreen, getElem?_flatMap_block (fun _ => by simp) c.isLt]
  simp

end Sys2Proof.Machine
end

section
/-!
PROOFS. The invariant of every reached state: where a step can take `pc`, memory and the stack, and that each host operation
keeps it (10_state.md R29, R51; 20_memory.md R60; 42_control.md R166; 60_exceptions.md R263).
-/

namespace Sys2Proof.Machine

/-! ### Where an instruction takes `pc`, memory and the stack -/

/-- The addresses that an instruction which does not fault can leave in `pc`: past itself, past a skipped one, a target
(R162, R164), a target plus V0 (R168), or past a popped address (R166). -/
def NextPc (s : State) (p : Word) : Prop :=
  p = s.pc + 2 ∨ p = s.pc + 4 ∨ (∃ nnn, p = addr16 nnn) ∨ (∃ nnn, p = addr16 nnn + byte16 (s.readV 0)) ∨
    ∃ k : Fin 16, p = s.stack[k] + 2

theorem State.skipIf_nextPc (s : State) (c : Bool) : NextPc s (s.skipIf c).pc := by
  cases c
  · exact .inl rfl
  · exact .inr (.inl rfl)

theorem sp_lt_of_instrFault_call {s : State} {op : Word} {nnn : BitVec 12} (h : instrFault s op (.call nnn) = none) :
    s.sp.val < 16 := by
  have hne : s.sp.val ≠ 16 := fun e => nomatch (if_pos e).symm.trans h
  omega

theorem sp_ne_of_instrFault_ret {s : State} {op : Word} (h : instrFault s op .ret = none) : s.sp.val ≠ 0 :=
  fun e => nomatch (if_pos e).symm.trans h

@[simp] theorem State.writeRegBlock_mem (s : State) (k : Nat) (bs : List Byte) : (s.writeRegBlock k bs).mem = s.mem := by
  rw [State.writeRegBlock_eq]

/-- What the execute phase does to `pc` and to the form of memory when it does not fault. -/
theorem exec_pc_mem {i : Instr} {s t : State} (ht : exec i s = .next t) (hn : instrFault s (encode i) i = none) :
    NextPc s t.pc ∧ (Memory.wf s.font s.mem → Memory.wf s.font t.mem) := by
  cases i with
  | cls | sys | ldImm | addImm | ldReg | orReg | andReg | xorReg | addReg | subReg | shr | subnReg | shl | ldI | rnd
  | ldVxDt | ldDtVx | ldStVx | addI | ldF =>
    cases ht
    exact ⟨.inl rfl, id⟩
  | seImm | sneImm | seReg | sneReg | skp | sknp =>
    cases ht
    exact ⟨s.skipIf_nextPc _, id⟩
  | jp nnn =>
    cases ht
    exact ⟨.inr (.inr (.inl ⟨nnn, rfl⟩)), id⟩
  | jpV0 nnn =>
    cases ht
    exact ⟨.inr (.inr (.inr (.inl ⟨nnn, rfl⟩))), id⟩
  | call nnn =>
    cases ht.symm.trans (exec_call_of_lt nnn s (sp_lt_of_instrFault_call hn))
    exact ⟨.inr (.inr (.inl ⟨nnn, rfl⟩)), id⟩
  | ret =>
    cases ht.symm.trans (exec_ret_of_pos s (sp_ne_of_instrFault_ret hn))
    exact ⟨.inr (.inr (.inr (.inr ⟨⟨s.sp.val - 1, by omega⟩, rfl⟩))), id⟩
  | ldVxK x =>
    cases hmode : s.keyWaitMode with
    | noop =>
      cases ht.symm.trans (exec_ldVxK_of_noop x hmode)
      exact ⟨.inl rfl, id⟩
    | wait =>
      cases ht.symm.trans (exec_ldVxK_of_wait x hmode)
      exact ⟨.inl rfl, id⟩
  | drw x y n =>
    rcases memReads_blockFault s (.drw x y n) n.toNat with ⟨r, hr, -⟩ | ⟨-, -, hrows⟩
    · exact nomatch hr.symm.trans hn
    · simp only [exec, execDrw, hrows] at ht
      cases ht
      exact ⟨.inl rfl, id⟩
  | loadRegs x =>
    rcases memReads_blockFault s (.loadRegs x) (blockLen x) with ⟨r, hr, -⟩ | ⟨-, -, hbytes⟩
    · exact nomatch hr.symm.trans hn
    · simp only [exec, execLoadRegs, hbytes] at ht
      cases ht
      rw [State.advance_pc, State.advance_mem, State.writeRegBlock_pc, State.writeRegBlock_mem]
      exact ⟨.inl rfl, id⟩
  | ldB x =>
    obtain ⟨m, hm, -, hwf⟩ := s.memWrites_ok s.memBase (bcdDigits (s.readV x)) (le_of_blockFault_eq_none hn)
    simp only [exec, execLdB, hm] at ht
    cases ht
    exact ⟨.inl rfl, hwf⟩
  | storeRegs x =>
    obtain ⟨m, hm, -, hwf⟩ := s.memWrites_ok s.memBase (s.regBlock x)
      (by rw [State.regBlock_length]; exact le_of_blockFault_eq_none hn)
    simp only [exec, execStoreRegs, hm] at ht
    cases ht
    exact ⟨.inl rfl, hwf⟩

/-- The only value a slot can take is the address of the instruction executed, a CALL. -/
theorem exec_stack {i : Instr} {s t : State} (ht : exec i s = .next t) (hn : instrFault s (encode i) i = none)
    (k : Fin 16) : t.stack[k] = s.stack[k] ∨ t.stack[k] = s.pc := by
  cases hw : (footprint s i).stack with
  | false =>
    obtain ⟨-, hstack⟩ := (frame_of_exec ht hn).stack hw
    rw [hstack]
    exact .inl rfl
  | true =>
    rcases footprint_stack hw with ⟨nnn, rfl⟩ | rfl
    · have hlt := sp_lt_of_instrFault_call hn
      cases ht.symm.trans (exec_call_of_lt nnn s hlt)
      by_cases hk : s.sp.val = k.val
      · exact .inr (by simp [hk])
      · exact .inl (Vector.getElem_set_ne hlt k.isLt hk)
    · cases ht.symm.trans (exec_ret_of_pos s (sp_ne_of_instrFault_ret hn))
      exact .inl rfl

theorem byte16_toNat (b : Byte) : (byte16 b).toNat = b.toNat := BitVec.toNat_setWidth_of_le (by decide)

/-- The largest sum of Bnnn, 0xFFF + 0xFF, does not wrap (D11). -/
theorem addr16_add_byte16_toNat (nnn : BitVec 12) (b : Byte) : (addr16 nnn + byte16 b).toNat = nnn.toNat + b.toNat := by
  rw [BitVec.toNat_add, addr16_toNat, byte16_toNat]
  omega

/-- From a fetched instruction `pc` goes no higher than Bnnn can take it (R29). -/
theorem NextPc.le {s : State} {p : Word} (h : NextPc s p) (hpc : s.pc.toNat + 1 < 4096)
    (hstack : ∀ k : Fin 16, s.stack[k].toNat ≤ 0x0FFE) : p.toNat ≤ 0x10FE := by
  have h2 : (2 : Word).toNat = 2 := rfl
  have h4 : (4 : Word).toNat = 4 := rfl
  rcases h with rfl | rfl | ⟨nnn, rfl⟩ | ⟨nnn, rfl⟩ | ⟨k, rfl⟩
  · rw [BitVec.toNat_add]
    omega
  · rw [BitVec.toNat_add]
    omega
  · rw [addr16_toNat]
    omega
  · rw [addr16_add_byte16_toNat]
    omega
  · have := hstack k
    rw [BitVec.toNat_add]
    omega

/-! ### The invariant under each update -/

/-- Without a fault the invariant speaks of memory, `pc`, the slots and WAIT alone. -/
theorem Inv.of_no_fault {s : State} (mem : Memory.wf s.font s.mem) (pc : s.pc.toNat ≤ 0x10FE)
    (stack : ∀ k : Fin 16, s.stack[k].toNat ≤ 0x0FFE) (noop : s.keyWaitMode = .noop → s.wait = none)
    (hf : s.fault = none) : Inv s where
  mem := mem
  pc := pc
  stack := stack
  noop := noop
  fault_wait h := by simp [hf] at h
  fault r h := by simp [hf] at h

theorem Inv.tick {s : State} (h : Inv s) : Inv s.tick := { h with }

theorem Inv.takeFault {s : State} (h : Inv s) (hw : s.wait = none) {r : FaultRecord} (hr : r.Fits s) :
    Inv { s with fault := some r } :=
  { h with
    fault_wait := fun _ => hw
    fault := fun _ e => Option.some.inj e ▸ hr }

theorem Inv.advance {s : State} (h : Inv s) (hf : s.fault = none) (hpc : s.pc.toNat + 1 < 4096) : Inv s.advance :=
  .of_no_fault h.mem (NextPc.le (.inl rfl) hpc h.stack) h.stack h.noop hf

theorem Inv.executed {s t : State} {i : Instr} (h : Inv s) (hi : Executes s i) (ht : exec i s = .next t)
    (hn : instrFault s (encode i) i = none) (hf : t.fault = none) : Inv t := by
  obtain ⟨op, ⟨-, hwait, hrange, -⟩, -⟩ := hi
  have hframe := frame_of_exec ht hn
  obtain ⟨hpc, hmem⟩ := exec_pc_mem ht hn
  refine .of_no_fault (hframe.font ▸ hmem h.mem) (hpc.le hrange h.stack) (fun k => ?_) (fun hmode => ?_) hf
  · rcases exec_stack ht hn k with hk | hk
    · exact hk ▸ h.stack k
    · rw [hk]
      omega
  · have hkeeps : (footprint s i).waitReg = false := Bool.eq_false_iff.2 fun hw =>
      nomatch (footprint_waitReg hw).1.symm.trans (hframe.keyWaitMode.symm.trans hmode)
    rw [hframe.waitReg hkeeps, hwait]

/-- Settles O19: each effect of a step keeps the invariant. -/
theorem stepKeepsInvariant : Obligations.StepKeepsInvariant := by
  intro s t h ht
  cases stepEffect_of_step ht with
  | stuck => exact h
  | held => exact h.tick
  | faults r _ hw hr => exact h.takeFault hw hr
  | ignored op u hop => exact (h.advance hop.not_faulted hop.in_range).tick
  | executed i u hi hn hu _ hf => exact (h.executed hi hu hn hf).tick

/-! ### The host operations -/

theorem inv_construct (font : Font) (mode : KeyWaitMode) : Inv (State.construct font mode) :=
  .of_no_fault ⟨.nil, nofun⟩ (by decide : 0x200 ≤ 0x10FE)
    (fun k => by rw [State.construct, Fin.getElem_fin, Vector.getElem_replicate]; decide) (fun _ => rfl) rfl

/-- Settles O20: no cell is listed, the slots are 0, and neither FAULT nor WAIT is set. -/
theorem constructionMeetsInvariant : Obligations.ConstructionMeetsInvariant := ⟨inv_construct, inv_construct _ _⟩

theorem Inv.resetOp {s : State} (h : Inv s) : Inv s.resetOp :=
  .of_no_fault h.mem (by decide : 0x200 ≤ 0x10FE) h.stack (fun _ => rfl) rfl

theorem Inv.loadROM {s : State} (h : Inv s) (bytes : List Byte) : Inv (s.loadROM bytes).2 := by
  by_cases hlen : bytes.length ≤ Config.maxRom
  · obtain ⟨m, hload, hwf⟩ := s.loadROM_ok hlen
    rw [hload]
    exact { h.resetOp with mem := hwf h.mem }
  · rw [s.loadROM_of_lt (Nat.lt_of_not_le hlen)]
    exact h

theorem Inv.setKeyFlag {s : State} (h : Inv s) (k : Fin 16) (pressed : Bool) : Inv (s.setKeyFlag k pressed) := { h with }

theorem Inv.endWait {s : State} (h : Inv s) (r : RegNo) (b : Byte) : Inv ((s.writeV r b).setWait none) :=
  { h with
    noop := fun _ => rfl
    fault_wait := fun _ => rfl }

theorem Inv.setKey {s : State} (h : Inv s) (index : Int) (pressed : Bool) : Inv (s.setKey index pressed).2 := by
  rcases keyIndex_cases index with ⟨k, rfl⟩ | hbad
  · cases pressed with
    | false =>
      rw [State.setKey_of_idle k (.inr rfl)]
      exact h.setKeyFlag k false
    | true =>
      cases hw : s.wait with
      | none =>
        rw [State.setKey_of_idle k (.inl hw)]
        exact h.setKeyFlag k true
      | some r =>
        rw [State.setKey_of_waiting k hw]
        exact (h.setKeyFlag k true).endWait r _
  · rw [s.setKey_of_invalid pressed hbad]
    exact h

/-- Settles O21: `reset` keeps memory and the slots, a load writes memory in its form, `setKey` the latch and WAIT. -/
theorem hostOperationsKeepInvariant : Obligations.HostOperationsKeepInvariant :=
  fun _ h => ⟨h.resetOp, h.loadROM, h.setKey⟩

theorem State.apply_step {s t : State} (h : step s = .next t) : s.apply .step = t := by simp only [State.apply, h]

theorem Inv.apply {s : State} (h : Inv s) (op : HostOp) : Inv (s.apply op) := by
  cases op with
  | step =>
    obtain ⟨t, ht, -⟩ := exists_stepEffect s
    rw [State.apply_step ht]
    exact stepKeepsInvariant s t h ht
  | reset => exact h.resetOp
  | loadROM bytes => exact h.loadROM bytes
  | setKey index pressed => exact h.setKey index pressed
  | getScreen => exact h

theorem Inv.applyAll {s : State} (h : Inv s) (ops : List HostOp) : Inv (s.applyAll ops) := by
  induction ops generalizing s with
  | nil => exact h
  | cons op ops ih => exact ih (h.apply op)

/-- Settles O22: construction meets the invariant and every operation keeps it. -/
theorem reachableStatesMeetInvariant : Obligations.ReachableStatesMeetInvariant :=
  fun font mode ops => (inv_construct font mode).applyAll ops

end Sys2Proof.Machine
end

section
/-!
PROOFS. Runs of a program (60_exceptions.md R246, R267): FAULT once set stays set while the program runs, so it is set at the
end exactly when a step set it.
-/

namespace Sys2Proof.Machine

/-- A faulted core stays faulted while its program runs. -/
theorem State.applyAll_isFaulted {s : State} {ops : List HostOp} (hd : ∀ op ∈ ops, op.duringRun = true)
    (h : s.fault.isSome = true) : (s.applyAll ops).fault.isSome = true := by
  induction ops generalizing s with
  | nil => exact h
  | cons op ops ih =>
    obtain ⟨hop, hops⟩ := List.forall_mem_cons.1 hd
    refine ih hops ?_
    rcases s.apply_fault hop with hsame | ⟨hnone, -⟩
    · rwa [hsame]
    · simp [hnone] at h

/-- A run one of whose steps returned `Fault` ends faulted. -/
theorem StepFaults.isFaulted {s : State} {ops : List HostOp} (hd : ∀ op ∈ ops, op.duringRun = true)
    (h : StepFaults s ops) : (s.applyAll ops).fault.isSome = true := by
  induction ops generalizing s with
  | nil => exact h.elim
  | cons op ops ih =>
    obtain ⟨-, hops⟩ := List.forall_mem_cons.1 hd
    rcases h with ⟨-, r, hr⟩ | h
    · obtain ⟨-, hfault⟩ := stepResult_eq_fault.1 hr
      exact State.applyAll_isFaulted (s := s.apply op) hops (by simp [hfault])
    · exact ih hops h

/-- A run none of whose steps returned `Fault` is never faulted. -/
theorem states_not_faulted {s : State} {ops : List HostOp} (hd : ∀ op ∈ ops, op.duringRun = true) (hf : s.fault = none)
    (h : ¬ StepFaults s ops) : ∀ t ∈ s.states ops, t.fault = none := by
  induction ops generalizing s with
  | nil => simpa using hf
  | cons op ops ih =>
    obtain ⟨hop, hops⟩ := List.forall_mem_cons.1 hd
    obtain ⟨hstep, hrest⟩ := not_or.1 h
    refine List.forall_mem_cons.2 ⟨hf, ih hops ?_ hrest⟩
    rcases s.apply_fault hop with hsame | ⟨-, rfl, r, hr⟩
    · rw [hsame, hf]
    · exact absurd ⟨rfl, r, stepResult_eq_fault.2 ⟨hf, hr⟩⟩ hstep

theorem State.applyAll_mem_states (s : State) (ops : List HostOp) : s.applyAll ops ∈ s.states ops := by
  induction ops generalizing s with
  | nil => exact List.mem_singleton_self s
  | cons op ops ih => exact List.mem_cons_of_mem _ (ih (s.apply op))

theorem Reached.inv {s : State} (h : Reached s) : Inv s := by
  obtain ⟨font, mode, ops, rfl⟩ := h
  exact reachableStatesMeetInvariant font mode ops

/-- Settles O60: a run starts with FAULT clear and only its steps set it; what the record says of `pc` is the invariant's. -/
theorem faultedRunsEndFaulted : Obligations.FaultedRunsEndFaulted := by
  intro s program ops n hrun
  have hstart := s.loadROM_fault hrun.loaded
  have hsafe := states_not_faulted hrun.during hstart
  refine ⟨⟨StepFaults.isFaulted hrun.during, fun hend => ?_⟩, fun r hr => ?_, hsafe⟩
  · by_contra hno
    have hnone : (runTo s program ops).fault = none := hsafe hno _ (State.applyAll_mem_states _ ops)
    simp [hnone] at hend
  · have hinv : Inv (runTo s program ops) := (hrun.reached.inv.loadROM program).applyAll ops
    obtain ⟨hpc, -⟩ := hinv.fault r hr
    exact ⟨hpc, step_of_faulted hr, stepResult_of_faulted hr _⟩

end Sys2Proof.Machine
end

section
/-!
PROOFS. SYS and Bnnn (42_control.md R160, R168), the skips (41_skips.md R140 to R146), and the instructions that copy one
value: 8xy0, Cxkk, Fx1E, Fx29, Fx07, Fx15 and Fx18.
-/

namespace Sys2Proof.Machine

/-! ### Control transfer -/

/-- Settles O24: group 0 reads the word as SYS but for its two exact words, and SYS is the advance. -/
theorem sysOnlyAdvances : Obligations.SysOnlyAdvances := fun nnn s =>
  ⟨fun hcls hret => decode_wordNNN rfl (by simp [Instr.wellFormed, hcls, hret]),
    s.advance, rfl, BitVec.toNat_add s.pc 2, (Frame.refl _ s).advance⟩

/-- Settles O28: the sum of a 12-bit address and a byte does not wrap. -/
theorem jumpV0AddsWithoutMask : Obligations.JumpV0AddsWithoutMask := fun nnn s =>
  have hsum := addr16_add_byte16_toNat nnn (s.readV 0)
  ⟨decode_wordNNN rfl rfl, s.setPc (addr16 nnn + byte16 (s.readV 0)), rfl, hsum,
    by rw [State.setPc_pc, hsum]; omega, (Frame.refl _ s).setPc _⟩

/-! ### Skips -/

/-- What a skip on `c` leaves: the frame, and `pc` past the next instruction where `c` holds (R146). -/
theorem State.skipIf_spec (s : State) {c : Bool} {p : Prop} (hc : c = true ↔ p) :
    Frame {} s (s.skipIf c) ∧ (p → (s.skipIf c).pc = s.pc + 4) ∧ (¬ p → (s.skipIf c).pc = s.pc + 2) := by
  refine ⟨(Frame.refl _ s).skipIf c, fun hp => ?_, fun hp => ?_⟩
  · rw [State.skipIf_pc, if_pos (hc.2 hp)]
  · rw [State.skipIf_pc, if_neg (mt hc.1 hp)]

theorem byte_beq_iff (a b : Byte) : (a == b) = true ↔ a.toNat = b.toNat := by rw [beq_iff_eq, BitVec.toNat_inj]

theorem byte_bne_iff (a b : Byte) : (a != b) = true ↔ a.toNat ≠ b.toNat := by rw [bne_iff_ne, Ne, Ne, BitVec.toNat_inj]

/-- The skip on equal bytes. -/
theorem State.skipIf_beq (s : State) (a b : Byte) :
    Frame {} s (s.skipIf (a == b)) ∧ (a.toNat = b.toNat → (s.skipIf (a == b)).pc = s.pc + 4) ∧
      (a.toNat ≠ b.toNat → (s.skipIf (a == b)).pc = s.pc + 2) :=
  s.skipIf_spec (byte_beq_iff a b)

/-- The skip on unequal bytes. -/
theorem State.skipIf_bne (s : State) (a b : Byte) :
    Frame {} s (s.skipIf (a != b)) ∧ (a.toNat ≠ b.toNat → (s.skipIf (a != b)).pc = s.pc + 4) ∧
      (a.toNat = b.toNat → (s.skipIf (a != b)).pc = s.pc + 2) :=
  let ⟨hframe, hskip, hfall⟩ := s.skipIf_spec (byte_bne_iff a b)
  ⟨hframe, hskip, fun h => hfall (not_not.2 h)⟩

/-- Settles O29: the two skips on Vx and kk. -/
theorem immediateSkips : Obligations.ImmediateSkips := fun x kk s =>
  ⟨decode_wordXKK rfl rfl, decode_wordXKK rfl rfl,
    ⟨_, rfl, s.skipIf_beq (s.readV x) kk⟩, _, rfl, s.skipIf_bne (s.readV x) kk⟩

/-- Settles O30: the two skips on Vx and Vy; groups 5 and 9 do not look at N. -/
theorem registerSkips : Obligations.RegisterSkips := fun x y s =>
  ⟨fun n => by simp [wordXYN_eq_encodeXYN, decode_of_group5],
    fun n => by simp [wordXYN_eq_encodeXYN, decode_of_group9],
    ⟨_, rfl, s.skipIf_beq (s.readV x) (s.readV y)⟩, _, rfl, s.skipIf_bne (s.readV x) (s.readV y)⟩

theorem State.keyAt_of_lt {s : State} {x : RegNo} {k : Fin 16} (h : (s.readV x).toNat = k.val) : s.keyAt x = s.keys[k] := by
  rw [State.keyAt, State.key, h, Vector.getElem?_eq_getElem k.isLt]
  rfl

/-- An index past the latch reads as not pressed (R46, D21). -/
theorem State.keyAt_of_le {s : State} {x : RegNo} (h : 16 ≤ (s.readV x).toNat) : s.keyAt x = false := by
  rw [State.keyAt, State.key, Vector.getElem?_eq_none h]
  rfl

/-- Settles O31: both skips go by one reading of the latch, the second by its negation. -/
theorem keySkips : Obligations.KeySkips := by
  refine fun x s => ⟨decode_wordXKK rfl rfl, decode_wordXKK rfl rfl, s.skipIf (s.keyAt x), s.skipIf (!s.keyAt x), rfl, rfl,
    (Frame.refl _ s).skipIf _, (Frame.refl _ s).skipIf _, fun k hk => ?_, fun h => ?_⟩
  · rw [State.keyAt_of_lt hk]
    exact ⟨fun h => by simp [h], fun h => by simp [h]⟩
  · simp [State.keyAt_of_le h]

/-! ### Copies -/

/-- Settles O34: Vx takes Vy and nothing else is written. -/
theorem copyRegister : Obligations.CopyRegister := fun x y s =>
  ⟨decode_wordXYN rfl rfl, (s.writeV x (s.readV y)).advance, rfl, s.readV_writeV_same x _, rfl,
    s.writeV_advance_frame x _⟩

/-- Settles O42: Vx takes the masked draw, so a bit clear in the mask is clear in Vx whatever the draw. -/
theorem randomIsMasked : Obligations.RandomIsMasked := by
  intro x kk s
  have hread := s.draw.2.readV_writeV_same x (Config.rand s.draws &&& kk)
  refine ⟨decode_wordXKK rfl rfl, (s.draw.2.writeV x (Config.rand s.draws &&& kk)).advance, rfl, hread,
    fun b hb => ?_, rfl, rfl, (((Frame.refl _ s).draw rfl).writeV List.mem_cons_self _).advance⟩
  rw [State.advance_readV, hread, BitVec.getLsbD_and, hb, Bool.and_false]

/-- Settles O47: five times a byte fits in `I`. -/
theorem fontAddress : Obligations.FontAddress := fun x s =>
  ⟨decode_wordXKK rfl rfl, (s.setI (glyphAddr (s.readV x))).advance, rfl,
    by rw [State.advance_i, State.setI_i, glyphAddr, BitVec.toNat_ofNat]; omega, rfl,
    ((Frame.refl _ s).setI rfl _).advance⟩

/-- Settles O48: the sum wraps at 2^16. -/
theorem addToIndex : Obligations.AddToIndex := fun x s =>
  ⟨decode_wordXKK rfl rfl, (s.setI (s.i + byte16 (s.readV x))).advance, rfl,
    by rw [State.advance_i, State.setI_i, BitVec.toNat_add, byte16_toNat], rfl, ((Frame.refl _ s).setI rfl _).advance⟩

/-- Settles O52: each of the three copies is one write. -/
theorem timerMoves : Obligations.TimerMoves := fun x s =>
  ⟨decode_wordXKK rfl rfl, decode_wordXKK rfl rfl, decode_wordXKK rfl rfl,
    ⟨(s.writeV x s.dt).advance, rfl, s.readV_writeV_same x s.dt, rfl, s.writeV_advance_frame x s.dt⟩,
    ⟨(s.setDT (s.readV x)).advance, rfl, rfl, rfl, ((Frame.refl _ s).setDT rfl _).advance⟩,
    (s.setST (s.readV x)).advance, rfl, rfl, rfl, ((Frame.refl _ s).setST rfl _).advance⟩

end Sys2Proof.Machine
end

section
/-!
PROOFS. The canonical form of memory is one (20_memory.md R60, log entry 7): its cells are what its reads say.
-/

namespace Sys2Proof.Machine

/-- Among rising addresses a listed cell is the one that is found. -/
theorem Memory.lookup_of_mem {m : Memory} (hs : m.Pairwise fun p q => p.1 < q.1) {a : Nat} {b : Byte} (h : (a, b) ∈ m) :
    Memory.lookup m a = some b := by
  induction m with
  | nil => cases h
  | cons c m ih =>
    obtain ⟨hc, hm⟩ := List.pairwise_cons.1 hs
    rcases List.mem_cons.1 h with rfl | h
    · exact if_pos rfl
    · exact (if_neg (hc _ h).ne).trans (ih hm h)

/-- A canonical memory lists a cell exactly where a read answers another byte than the constructed one. -/
theorem Memory.mem_iff_read {font : Font} {m : Memory} (h : Memory.wf font m) (a : Nat) (b : Byte) :
    (a, b) ∈ m ↔ a < 4096 ∧ b ≠ Memory.unlisted font a ∧ Memory.read font m a = b := by
  obtain ⟨hs, hcells⟩ := h
  constructor
  · intro hm
    obtain ⟨ha, hb⟩ := hcells _ hm
    exact ⟨ha, hb, by rw [Memory.read, Memory.lookup_of_mem hs hm, Option.getD_some]⟩
  · rintro ⟨-, hb, rfl⟩
    cases hl : Memory.lookup m a with
    | none => exact absurd (by rw [Memory.read, hl, Option.getD_none]) hb
    | some b =>
      rw [Memory.read, hl]
      exact Memory.lookup_mem hl

/-- Settles O23: equal reads give the same cells, and rising lists of the same cells are equal. -/
theorem equalReadsAreEqualMemories : Obligations.EqualReadsAreEqualMemories := by
  intro font m m' hm hm' hread
  have : Std.Irrefl fun p q : Host.Cell => p.1 < q.1 := ⟨fun p => Nat.lt_irrefl p.1⟩
  have : Std.Antisymm fun p q : Host.Cell => p.1 < q.1 := ⟨fun p q h h' => absurd h' h.asymm⟩
  refine hm.1.eq_of_mem_iff hm'.1 fun ⟨a, b⟩ => ?_
  rw [Memory.mem_iff_read hm, Memory.mem_iff_read hm']
  exact and_congr_right fun ha => by rw [hread a ha]

end Sys2Proof.Machine
end

section
/-!
PROOFS. Dxyn (43_display.md R182, R184): the sprite's cells as the set that SpriteCovers names, the course that draws and the
one that faults, and two equal draws.
-/

namespace Sys2Proof.Machine

/-- The rows Dxyn reads, ascending from `I`. -/
def spriteRows (s : State) (n : BitVec 4) : List Byte := (List.range n.toNat).map fun k => s.readByte (s.i.toNat + k)

@[simp] theorem spriteRows_length (s : State) (n : BitVec 4) : (spriteRows s n).length = n.toNat := by
  rw [spriteRows, List.length_map, List.length_range]

theorem spriteRows_length_le (s : State) (n : BitVec 4) : (spriteRows s n).length ≤ 32 := by
  rw [spriteRows_length]
  omega

theorem spriteRows_getElem (s : State) (n : BitVec 4) (k : Nat) (h : k < (spriteRows s n).length) :
    (spriteRows s n)[k] = s.readByte (s.i.toNat + k) := by
  simp only [spriteRows, List.getElem_map, List.getElem_range]

/-- The cells of the drawing loops are the covered ones. -/
theorem mem_spriteCells_iff (s : State) (x y : RegNo) (n : BitVec 4) (c : Fin 64) (r : Fin 32) :
    (c, r) ∈ spriteCells (s.readV x) (s.readV y) 0 (spriteRows s n) ↔ SpriteCovers s x y n c r := by
  simp only [mem_spriteCells, mem_rowCells, spriteRows_getElem, spriteRows_length, Prod.mk.injEq, Fin.ext_iff, Nat.zero_add]
  constructor
  · rintro ⟨row, hrow, col, hcol, hbit, hc, hr⟩
    exact ⟨row, col, hrow, hcol, hbit, hc, hr⟩
  · rintro ⟨row, col, hrow, hcol, hbit, hc, hr⟩
    exact ⟨row, hrow, col, hcol, hbit, hc, hr⟩

/-! ### The draw -/

/-- The framebuffer and the collision flag after Dxyn. -/
def drawSprite (s : State) (x y : RegNo) (n : BitVec 4) : Drawing :=
  drawRows (s.readV x) (s.readV y) 0 (spriteRows s n) (s.fb, false)

theorem get_drawSprite_of_covers {s : State} {x y : RegNo} {n : BitVec 4} {c : Fin 64} {r : Fin 32}
    (h : SpriteCovers s x y n c r) : Framebuffer.get (drawSprite s x y n).1 c r = !s.pixel c r :=
  (get_drawRows _ _ _ (spriteRows_length_le s n) _ c r).trans (if_pos ((mem_spriteCells_iff s x y n c r).2 h))

theorem get_drawSprite_of_not_covers {s : State} {x y : RegNo} {n : BitVec 4} {c : Fin 64} {r : Fin 32}
    (h : ¬ SpriteCovers s x y n c r) : Framebuffer.get (drawSprite s x y n).1 c r = s.pixel c r :=
  (get_drawRows _ _ _ (spriteRows_length_le s n) _ c r).trans (if_neg (mt (mem_spriteCells_iff s x y n c r).1 h))

/-- The flag says that a covered cell was 1. -/
theorem drawSprite_hit (s : State) (x y : RegNo) (n : BitVec 4) :
    (drawSprite s x y n).2 = true ↔ ∃ c r, SpriteCovers s x y n c r ∧ s.pixel c r = true := by
  simp only [← mem_spriteCells_iff]
  exact hit_drawRows _ _ _ (spriteRows_length_le s n) s.fb

theorem flagByte_eq_one {b : Bool} : flagByte b = 1 ↔ b = true := by cases b <;> decide

theorem flagByte_eq_zero {b : Bool} : flagByte b = 0 ↔ b = false := by cases b <;> decide

/-- What Dxyn leaves where every row exists, or there is none. -/
structure Drawn (x y : RegNo) (n : BitVec 4) (s t : State) : Prop where
  toggled : ∀ c r, SpriteCovers s x y n c r → t.pixel c r = !s.pixel c r
  kept : ∀ c r, ¬ SpriteCovers s x y n c r → t.pixel c r = s.pixel c r
  flag : ∃ hit, t.readV 0xF = flagByte hit ∧ (hit = true ↔ ∃ c r, SpriteCovers s x y n c r ∧ s.pixel c r = true)
  pc : t.pc = s.pc + 2
  frame : Frame { regs := [0xF], screen := true } s t

theorem exec_drw (x y : RegNo) (n : BitVec 4) {s : State} (h : n.toNat = 0 ∨ s.i.toNat + n.toNat ≤ 4096) :
    ∃ t, exec (.drw x y n) s = .next t ∧ Drawn x y n s t := by
  have hrows : s.memReads s.memBase n.toNat = .ok (spriteRows s n) := (s.memReads_eq _ _).trans (if_pos h)
  have hflag : flagReg = 0xF := rfl
  refine ⟨((s.setFb (drawSprite s x y n).1).writeFlag (drawSprite s x y n).2).advance,
    by simp only [exec, execDrw, hrows, drawSprite], fun c r => get_drawSprite_of_covers,
    fun c r => get_drawSprite_of_not_covers, ⟨(drawSprite s x y n).2, ?_, drawSprite_hit s x y n⟩, rfl,
    (((Frame.refl _ s).setFb rfl _).writeFlag List.mem_cons_self _).advance⟩
  rw [State.advance_readV, State.readV_writeFlag, hflag, if_pos rfl]

/-- Settles O44: the loops toggle each cell of the covered set once, and the flag is the collision with it. -/
theorem drawTogglesCoveredCells : Obligations.DrawTogglesCoveredCells := by
  refine fun x y n s => ⟨decode_wordXYN rfl rfl, fun h => ?_⟩
  obtain ⟨t, ht, htoggled, hkept, ⟨hit, hread, hhit⟩, hpc, hframe⟩ := exec_drw x y n h
  refine ⟨t, ht, htoggled, hkept, fun hc => ?_, fun hc => ?_, hpc, hframe⟩
  · exact hread.trans (flagByte_eq_one.2 (hhit.2 hc))
  · exact hread.trans (flagByte_eq_zero.2 (Bool.eq_false_iff.2 (mt hhit.1 hc)))

/-- Settles O45: the fault table gives a row out of memory MemReadRange, and that is the whole effect. -/
theorem drawOutOfRangeFaults : Obligations.DrawOutOfRangeFaults := by
  intro x y n s hn hi
  rw [wordXYN_eq_encodeXYN]
  exact exec_of_instrFault_some (blockFault_of_lt _ _ hn hi)

/-! ### Two draws -/

/-- With its coordinates not in VF a sprite covers the same cells after it is drawn. -/
theorem Drawn.covers_iff {x y : RegNo} {n : BitVec 4} {s t : State} (h : Drawn x y n s t) (hx : x ≠ 0xF) (hy : y ≠ 0xF)
    (c : Fin 64) (r : Fin 32) : SpriteCovers t x y n c r ↔ SpriteCovers s x y n c r := by
  have hreg : ∀ q : RegNo, q ≠ 0xF → t.readV q = s.readV q := fun q hq => h.frame.regs q (mt List.mem_singleton.1 hq)
  have hmem : ∀ a, t.readByte a = s.readByte a := fun a => h.frame.mem a fun ha => Nat.not_lt_zero a ha.2
  simp only [SpriteCovers, hreg x hx, hreg y hy, hmem, h.frame.index rfl]

/-- Settles O46: the second draw covers the same cells, so it toggles each of them back, and it finds at 1 those that the
first found at 0. -/
theorem drawingTwiceRestores : Obligations.DrawingTwiceRestores := by
  intro x y n s t u hx hy hi ht hu
  obtain ⟨t', ht', hst⟩ := exec_drw x y n (.inr hi)
  cases ht.symm.trans ht'
  have hi' : t.i.toNat + n.toNat ≤ 4096 := by rwa [hst.frame.index rfl]
  obtain ⟨u', hu', htu⟩ := exec_drw x y n (.inr hi')
  cases hu.symm.trans hu'
  have hcovers := hst.covers_iff hx hy
  refine ⟨fun c r => ?_, ?_⟩
  · by_cases hc : SpriteCovers s x y n c r
    · rw [htu.toggled c r ((hcovers c r).2 hc), hst.toggled c r hc, Bool.not_not]
    · rw [htu.kept c r (mt (hcovers c r).1 hc), hst.kept c r hc]
  · obtain ⟨hit, hread, hhit⟩ := htu.flag
    rw [hread, flagByte_eq_one, hhit]
    refine exists₂_congr fun c r => ?_
    rw [hcovers]
    exact and_congr_right fun hc => by rw [hst.toggled c r hc, Bool.not_eq_true']

end Sys2Proof.Machine
end
